-- ==== Sys2Proof/Word.lean ====
section
/-! DEFINITION. The words of the FR316: octets, station time, counters, lanes, and the two values of a
lane-wise pair.  Only the types and their plainest arithmetic stand here. -/

namespace Sys2Proof

/-- One octet of a frame, of a record or of the image (R183). -/
abbrev Byte := BitVec 8

/-- Octets in the order in which they are sent on a lane or written over the configuration port (R183). -/
abbrev Octets := List Byte

/-- Station time: ticks of 100 ns, counted modulo 2^32 (R171). -/
abbrev Time := BitVec 32

/-- A timer of station time: stopped, or running toward the station time of its expiry (R171). -/
abbrev Timer := Option Time

/-- A counter of R163, 0..4,294,967,295. -/
abbrev Counter := BitVec 32

/-- One direction of the ring: A runs eastbound, B westbound (chapter 1). -/
inductive Lane where
  | A
  | B
deriving DecidableEq, Repr

/-- "The other lane" and "the opposite lane" (scope, section 8.4). -/
def Lane.other : Lane → Lane
  | .A => .B
  | .B => .A

/-- One value for each lane. -/
structure PerLane (α : Type) where
  a : α
  b : α
deriving DecidableEq, Repr

/-- The value of lane `L`. -/
def PerLane.get {α : Type} (v : PerLane α) : Lane → α
  | .A => v.a
  | .B => v.b

/-- The pair with lane `L`'s value replaced. -/
def PerLane.set {α : Type} (v : PerLane α) (L : Lane) (x : α) : PerLane α :=
  match L with
  | .A => { v with a := x }
  | .B => { v with b := x }

/-- The same value for both lanes. -/
def PerLane.both {α : Type} (x : α) : PerLane α := ⟨x, x⟩

/-- Both values changed alike. -/
def PerLane.map {α β : Type} (f : α → β) (v : PerLane α) : PerLane β := ⟨f v.a, f v.b⟩

end Sys2Proof
end

