-- ==== Sys2Proof/Syntax.lean ====
section
/-! DEFINITION. The commands of the FR316: one constructor per row of spec/opcode_table.json.  A command is an
event at the part (an arrival, a pin change, a timer's expiry, a query, a byte on the two-wire bus) with the
operands that the event carries. -/

namespace Sys2Proof

/-- What a query brings to the query responder beside its kind (R156): the asker, the station the QRY is
addressed to (63 for all), the index and the tag. -/
structure QueryHead where
  /-- source station of the QRY -/
  src : BitVec 6
  /-- destination station of the QRY -/
  dst : BitVec 6
  /-- the port, peer or command the query concerns -/
  index : Byte
  /-- the asker's tag -/
  tag : BitVec 16
deriving DecidableEq, Repr

/-- A byte after the address on the two-wire bus, with the acknowledgement that follows it (R178).  In a write the bus
controller drives `bits` and the port acknowledges, so `acked` is not read.  In a read the port drives the bits, so
`bits` is not read, and `acked` says whether the bus controller acknowledges the byte (R182). -/
structure BusByte where
  /-- the eight bits, as the bus controller drives them -/
  bits : Byte
  /-- the bus controller acknowledges -/
  acked : Bool
deriving DecidableEq, Repr

/-- The FR316's commands, in the order of spec/opcode_table.json.  Ports are 0..7, commands 1..4 are held as
0..3, peers by their index 0..11. -/
inductive Instr where
  /-- COLD_RESET (R19): RSTn goes low, or power comes on. -/
  | coldReset
  /-- RESET_RELEASE (R172): RSTn is released with the straps STA5..STA0 and CFGA at these levels. -/
  | resetRelease (straps : BitVec 6) (cfga : Bool)
  /-- FRAME_ARRIVAL (R1): a frame's octets, header, body and check sequence, have been received on a lane. -/
  | frameArrival (lane : Lane) (octets : Octets)
  /-- TRANSMISSION_COMPLETION (R16): the frame being sent on a lane has been sent. -/
  | transmissionCompletion (lane : Lane)
  /-- ECHO_UNMEASURED (R122): the missed count of a peer's lane part has reached 3. -/
  | echoUnmeasured (peer : Fin 12) (lane : Lane)
  /-- DUPLICATE_ENTRY_EXPIRY (R29): the age timer of a station's duplicate-table entry expires. -/
  | duplicateEntryExpiry (station : BitVec 6)
  /-- MARK_PERIOD_EXPIRY (R31): 10 ms of RUN have passed since the last MARK. -/
  | markPeriodExpiry
  /-- RETURN_TIMER_EXPIRY (R33): a lane's return timer expires. -/
  | returnTimerExpiry (lane : Lane)
  /-- PRESENCE_TIMER_EXPIRY (R39): the presence timer of a peer's lane expires. -/
  | presenceTimerExpiry (peer : Fin 12) (lane : Lane)
  /-- OCTET_RECEIVED (R43): a port has gathered a complete octet. -/
  | octetReceived (port : Fin 8) (octet : Byte)
  /-- LOS_ASSERTED (R44): LOSk is asserted. -/
  | losAsserted (port : Fin 8)
  /-- LOS_DEASSERTED (R43): LOSk is deasserted. -/
  | losDeasserted (port : Fin 8)
  /-- SILENCE_TIMER_EXPIRY (R44): a port's silence timer expires. -/
  | silenceTimerExpiry (port : Fin 8)
  /-- STATION_CELL_COMPLETION (R49): a station-timed cell reaches its completion time. -/
  | stationCellCompletion (port : Fin 8)
  /-- INTERVAL_EVENT (R70): the interval event of every circuit that is not OFF. -/
  | intervalEvent
  /-- STARVATION (R74): a circuit's starved run has reached its starvation limit. -/
  | starvation (port : Fin 8)
  /-- IDLE_RUN_LIMIT (R76): a circuit's idle run in PREFILL has reached its starvation limit. -/
  | idleRunLimit (port : Fin 8)
  /-- FLUSH_END (R84): a circuit's flush count has reached its flush setting. -/
  | flushEnd (port : Fin 8)
  /-- TRAFFIC_SWITCH (R91): a circuit's switch run stands at the switch limit with the other lane seen. -/
  | trafficSwitch (port : Fin 8)
  /-- REVERT_TIMER_EXPIRY (R94): a circuit's revert timer expires. -/
  | revertTimerExpiry (port : Fin 8)
  /-- ECHO_ROUND (R120): an echo period of RUN has passed since the last echo round. -/
  | echoRound
  /-- CI_CHANGE (R136): a command input pin takes a level. -/
  | ciChange (command : Fin 4) (level : Bool)
  /-- QUALIFICATION_EXPIRY (R136): a command input's qualification timer expires. -/
  | qualificationExpiry (command : Fin 4)
  /-- REPEAT_TIMER_EXPIRY (R141): an outgoing record's repeat timer expires. -/
  | repeatTimerExpiry (command : Fin 4)
  /-- ANSWER_TIMER_EXPIRY (R144): an outgoing record's answer timer expires. -/
  | answerTimerExpiry (command : Fin 4)
  /-- PERSISTENCE_TIMER_EXPIRY (R150): an incoming record's persistence timer expires. -/
  | persistenceTimerExpiry (command : Fin 4)
  /-- HOLD_TIMER_EXPIRY (R150): an incoming record's hold timer expires. -/
  | holdTimerExpiry (command : Fin 4)
  /-- SEQUENCE_TIMER_EXPIRY (R150): an incoming record's sequence timer expires. -/
  | sequenceTimerExpiry (command : Fin 4)
  /-- TK_CHANGE (R149): a taken pin takes a level. -/
  | tkChange (command : Fin 4) (level : Bool)
  /-- TAKEN_WINDOW_EXPIRY (R149): an answer cycle's taken window timer expires. -/
  | takenWindowExpiry (command : Fin 4)
  /-- BLOCK_CHANGE (R147): the BLOCK pin takes a level. -/
  | blockChange (level : Bool)
  /-- READ_STATION (R159), dispatched to the query responder. -/
  | readStation (query : QueryHead)
  /-- READ_CIRCUIT (R160). -/
  | readCircuit (query : QueryHead)
  /-- READ_PEER (R161). -/
  | readPeer (query : QueryHead)
  /-- READ_COMMAND (R161). -/
  | readCommand (query : QueryHead)
  /-- DRAIN (R168). -/
  | drain (query : QueryHead)
  /-- SET_LOOP_LINE (R97). -/
  | setLoopLine (query : QueryHead)
  /-- SET_LOOP_LOCAL (R97). -/
  | setLoopLocal (query : QueryHead)
  /-- CLEAR_LOOP (R98). -/
  | clearLoop (query : QueryHead)
  /-- CLEAR_COUNTS (R164). -/
  | clearCounts (query : QueryHead)
  /-- RESTART (R165). -/
  | restart (query : QueryHead)
  /-- UNKNOWN_QUERY_KIND (R156): a query whose kind code names none of the ten kinds. -/
  | unknownQueryKind (code : Byte) (query : QueryHead)
  /-- QUIET_EXPIRY (R175): the quiet timer expires. -/
  | quietExpiry
  /-- BUS_START (R178): a START or repeated START on the two-wire bus. -/
  | busStart
  /-- BUS_STOP (R178): a STOP on the two-wire bus. -/
  | busStop
  /-- ADDRESS_BYTE (R178): the first byte after a START. -/
  | addressByte (byte : Byte)
  /-- LOAD_BYTE (R179): a byte of a write that names a record. -/
  | loadByte (byte : Byte)
  /-- DATA_BYTE (R179): a byte of a write for the record that the load pointer names, or a byte of a read (R182). -/
  | dataByte (byte : BusByte)
  /-- CLOSE (R180): the load byte 0xE0. -/
  | close
  /-- BIT_SAMPLED (R43): a rising edge of RXCk samples this bit of RXDk. -/
  | bitSampled (port : Fin 8) (bit : Bool)
  /-- TXC_FALLING_EDGE (R57): a falling edge of TXCk. -/
  | txcFallingEdge (port : Fin 8)
deriving DecidableEq, Repr

end Sys2Proof
end

