-- ==== Sys2Proof/Config.lean ====
section
/-! DEFINITION. What the FR316's specification fixes once for every station: capacities, periods and limits.
The specification leaves no value of an operation undefined, so no open constant stands here. -/

namespace Sys2Proof.Config

/-- R10: each lane's transit queue holds at most 16 frames. -/
def transitCapacity : Nat := 16
/-- R10: each lane's local queue holds at most 12 frames. -/
def localCapacity : Nat := 12
/-- R166: the change queue holds at most 32 entries. -/
def changeCapacity : Nat := 32
/-- R168: a DRAIN takes at most 8 entries. -/
def drainLimit : Nat := 8
/-- R127: a sample ring holds at most 8 round trips. -/
def sampleCapacity : Nat := 8
/-- R63: the playout buffer has 16 slots. -/
def bufferSlots : Nat := 16

/-- R171: 1 ms is 10,000 ticks of 100 ns. -/
def ticksPerMs : Nat := 10000
/-- R94: 1 s is 10,000,000 ticks. -/
def ticksPerSecond : Nat := 10000000
/-- R70: an interval event falls every 10,000 ticks. -/
def intervalTicks : Nat := 10000
/-- R49: a station-timed cell completes 10,000 ticks after its beginning. -/
def cellTicks : Nat := 10000
/-- R31: a MARK every 10 ms. -/
def markPeriod : Nat := 100000
/-- R33: the return timer runs 30 ms. -/
def returnPeriod : Nat := 300000
/-- R39: the presence timer runs 30 ms. -/
def presencePeriod : Nat := 300000
/-- R26: the age timer of a duplicate-table entry runs 200 ms. -/
def agePeriod : Nat := 2000000
/-- R44: the silence timer runs 2 ms. -/
def silencePeriod : Nat := 20000
/-- R174: the quiet timer runs 250 ms. -/
def quietPeriod : Nat := 2500000
/-- R141: a CMD repeats every 2 ms. -/
def repeatPeriod : Nat := 20000
/-- R147: the persistence timer runs 10 ms. -/
def persistencePeriod : Nat := 100000
/-- R146: the sequence timer runs 200 ms. -/
def sequencePeriod : Nat := 2000000

/-- One quantum of the model's clock is 4 ns, the largest time that divides both a tick (100 ns, R171) and
the sending of an octet (8 ns, R16): a tick is 25 quanta. -/
def quantaPerTick : Nat := 25
/-- R16: 125,000,000 octets a second, so an octet takes 8 ns, two quanta. -/
def quantaPerOctet : Nat := 2
/-- R111: an interval of 10,000 ticks (250,000 quanta) holds 8 × N × (1 + C × 10^−9) bit periods of TXCk.  Counted
in 10^−9 of a 250,000th of a bit, a quantum adds 8 × N × (10^9 + C) and a whole bit is this much. -/
def txBit : Nat := 1000000000 * 250000

/-- R104: integrator, held and applied correction stay within ±100,000 ppb. -/
def ppbLimit : Int := 100000
/-- R110: one octet in nano-octets. -/
def nanoOctet : Int := 1000000000

/-- R127: a round trip of at most 500,000 ticks is valid. -/
def roundTripLimit : Int := 500000

/-- R11: an originated frame starts with hop count 63. -/
def originHop : Nat := 63
/-- R184: a body is at least 47 octets long. -/
def minBody : Nat := 47

end Sys2Proof.Config
end

