-- ==== Sys2Proof/Machine/State.lean ====
section
/-! DEFINITION. The state of the FR316 as plain data, the reasons a step could stop, and the state of the part
held in cold reset.  Every piece of state the chapters name stands here once; the fields that are the model's
own (`subTick`, `tieBreak`, `pending`) say so. -/

namespace Sys2Proof.Machine

/-! ### Why a step could stop -/

/-- The faults of a step.  There is no constructor: every event of the table has the effect the chapters give
it, so no command ends the run (safe: nothing is lost). -/
inductive Fault where
deriving DecidableEq, Repr

/-- The refusals of a step. -/
inductive Refusal where
  /-- Raised by an arm of `exec` for a command that has no meaning yet; no arm raises it (safe). -/
  | notModelled (mnemonic : String)
deriving DecidableEq, Repr

/-! ### Ring lanes (chapter 1) -/

/-- R18: the ten counters of a lane forwarder. -/
structure LaneCounters where
  framesReceived : Counter
  checkFailures : Counter
  malformed : Counter
  stripped : Counter
  framesDelivered : Counter
  hopExpired : Counter
  framesForwarded : Counter
  transitDrops : Counter
  localDrops : Counter
  framesSent : Counter
deriving DecidableEq, Repr

/-- R14: the egress of a lane. -/
inductive Egress where
  | idle
  /-- sending these octets: header, body and check sequence -/
  | sending (frame : Octets)
deriving DecidableEq, Repr

/-- R10, R11, R14, R18: one lane forwarder.  Frames of the transit queue are held with their check sequence
(R8); frames of the local queue are held as header and body, since their check sequence is computed at the
grant (R11). Both queues are oldest first. -/
structure Forwarder where
  transit : List Octets
  localQ : List Octets
  egress : Egress
  counts : LaneCounters
deriving DecidableEq, Repr

/-! ### Duplicate table, mark unit, peer table (chapter 2) -/

/-- R26: a valid entry of the duplicate table. Bit d of `window` is the position at distance d from the front,
set when that sequence has been accepted; `age` is the station time at which the entry expires. -/
structure DupEntry where
  front : BitVec 16
  window : BitVec 64
  age : Time
deriving DecidableEq, Repr

/-- R31: a lane is CLOSED while the own MARK keeps coming back on it. -/
inductive LaneState where
  | closed
  | opened
deriving DecidableEq, Repr

/-- R32, R33: what the mark unit holds for one lane. -/
structure MarkLane where
  state : LaneState
  ringSize : Option Nat
  returnTimer : Timer
deriving DecidableEq, Repr

/-- R37: one lane part of a peer record. -/
structure PeerLane where
  present : Bool
  hop : Option Nat
  presenceTimer : Timer
  outstanding : Option Time
  missed : Nat
  /-- round-trip samples in ticks, oldest first -/
  samples : List Nat
  /-- path figure in ticks -/
  figure : Option Nat
deriving DecidableEq, Repr

/-- R37: a peer record.  Bit p of `circuits` stands for port p, bit k − 1 of `commands` for command k. -/
structure Peer where
  station : Nat
  circuits : BitVec 8
  commands : BitVec 4
  lanes : PerLane PeerLane
deriving DecidableEq, Repr

/-! ### Tributary ports (chapters 3 to 7) -/

/-- R44: the line state of a port. -/
inductive LineState where
  | present
  | lost
deriving DecidableEq, Repr

/-- R43, R44: the receive line of a port. -/
structure Receiver where
  /-- bits gathered toward the next octet, first gathered first; at most seven -/
  gathered : List Bool
  /-- level of LOSk -/
  los : Bool
  line : LineState
  silence : Timer
deriving DecidableEq, Repr

/-- The cell under assembly (section 3.3): LINE-timed with the octets held, or STATION-timed with its
completion time. -/
inductive CellTiming where
  | line (held : Octets)
  | station (completion : Time)
deriving DecidableEq, Repr

/-- Section 3.3: the cell assembler. -/
structure Assembler where
  running : Bool
  cell : Option CellTiming
  nextCount : BitVec 16
deriving DecidableEq, Repr

/-- R57, R59: the transmit store and what drives TXDk. -/
structure Transmitter where
  /-- octets waiting to be sent, oldest first -/
  store : Octets
  /-- bits of the oldest octet already driven, 0..7 -/
  sentBits : Nat
  /-- level of TXDk -/
  txd : Bool
  /-- the bit last sampled on RXDk, which a line loop repeats (R59) -/
  repeatBit : Bool
deriving DecidableEq, Repr

/-- R63: a cell held in the playout buffer; `lane` is none for a cell of the local loop. -/
structure HeldCell where
  count : BitVec 16
  payload : Octets
  srcLost : Bool
  lane : Option Lane
deriving DecidableEq, Repr

/-- R64: a play position. -/
structure Position where
  count : BitVec 16
  offset : Nat
deriving DecidableEq, Repr

/-- Chapter 4: the playout engine.  `stored` says that a cell has been stored since the previous interval
event (R76). -/
structure Engine where
  buffer : Vector (Option HeldCell) 16
  position : Option Position
  fill : Nat
  starvedRun : Nat
  idleRun : Nat
  stored : Bool
deriving DecidableEq, Repr

/-- R104: the clock loop, I, H, C in ppb, A in nano-octets, n in octets (0 while the circuit is OFF). -/
structure ClockLoop where
  integrator : Int
  held : Int
  applied : Int
  accumulator : Int
  next : Nat
deriving DecidableEq, Repr

/-- Section 5.2: the circuit states. -/
inductive CircuitState where
  | off
  | wait
  | flush
  | prefill
  | play
deriving DecidableEq, Repr

/-- Section 5.5: the loop state of a circuit. -/
inductive LoopState where
  | none
  | loc
  | line
deriving DecidableEq, Repr

/-- R90: the switch tally of a pinned circuit. -/
structure Tally where
  currentMark : Bool
  otherMark : Bool
  run : Nat
  otherSeen : Bool
deriving DecidableEq, Repr

/-- Section 5.1 and R129: the dynamic state of a circuit. -/
structure Circuit where
  state : CircuitState
  flushCount : Nat
  current : Option Lane
  tally : Tally
  revert : Timer
  asymmetric : Bool
  overBudget : Bool
  loop : LoopState
  /-- circuit delay figure in ticks (R129) -/
  delay : Option Nat
deriving DecidableEq, Repr

/-- R55, R79, R103: the fourteen counters of a circuit, in the order of READ-CIRCUIT. -/
structure CircuitCounters where
  cellsAssembled : Counter
  srcLostCells : Counter
  lineLosses : Counter
  cellsAccepted : Counter
  duplicateCells : Counter
  late : Counter
  slips : Counter
  missing : Counter
  starvations : Counter
  flushedCells : Counter
  playedA : Counter
  playedB : Counter
  laneSwitches : Counter
  otherLaneCells : Counter
deriving DecidableEq, Repr

/-- One tributary port with its circuit. -/
structure Port where
  rx : Receiver
  asm : Assembler
  tx : Transmitter
  engine : Engine
  clk : ClockLoop
  circuit : Circuit
  counts : CircuitCounters
deriving DecidableEq, Repr

/-! ### Protection commands (chapter 8) -/

/-- R139. -/
inductive Activity where
  | idle
  | on
  | releasing
deriving DecidableEq, Repr

/-- R139. -/
inductive AnswerState where
  | none
  | awaiting
  | answered
  | answeredLate
  | unanswered
deriving DecidableEq, Repr

/-- R138: the conditions of a CMDACK. -/
structure Conditions where
  taken : Bool
  already : Bool
  blocked : Bool
deriving DecidableEq, Repr

/-- R139: an outgoing record. -/
structure Outgoing where
  activity : Activity
  activation : BitVec 8
  answer : AnswerState
  conditions : Option Conditions
  offLeft : Nat
  repeatTimer : Timer
  answerTimer : Timer
deriving DecidableEq, Repr

/-- R145. -/
inductive IncomingState where
  | idle
  | active
  | holding
  | refused
deriving DecidableEq, Repr

/-- R145, R149: an answer cycle with its taken window timer. -/
structure Cycle where
  activation : BitVec 8
  already : Bool
  answered : Bool
  window : Timer
deriving DecidableEq, Repr

/-- R145: an incoming record. -/
structure Incoming where
  state : IncomingState
  lastSeq : Option (BitVec 16)
  seqTimer : Timer
  activation : Option (BitVec 8)
  assertTime : Option Time
  persistence : Timer
  hold : Timer
  cycle : Option Cycle
deriving DecidableEq, Repr

/-- One command: its three pins, its qualifier (R136) and its records (R135). -/
structure Command where
  /-- level of CIk -/
  ci : Bool
  /-- level of TKk -/
  tk : Bool
  /-- level of COk -/
  co : Bool
  /-- qualified level of CIk: true for ASSERTED -/
  qualified : Bool
  qualTimer : Timer
  outgoing : Option Outgoing
  incoming : Option Incoming
deriving DecidableEq, Repr

/-! ### Change queue (chapter 9) -/

/-- R166: kind, subject and value of a change entry. -/
inductive Change where
  | circuitState (port : Fin 8) (state : CircuitState)
  | laneSwitch (port : Fin 8) (lane : Lane)
  | asymmetry (port : Fin 8) (flag : Bool)
  | budget (port : Fin 8) (flag : Bool)
  | laneOpen (lane : Lane)
  | laneClosed (lane : Lane) (ringSize : Nat)
  | peerPresent (peer : Nat) (lane : Lane)
  | peerAbsent (peer : Nat)
  | cmdSent (command : Fin 4) (activation : BitVec 8)
  | cmdUnanswered (command : Fin 4) (activation : BitVec 8)
  | cmdReceived (command : Fin 4) (activation : BitVec 8)
  | clash (lane : Lane) (instanceValue : BitVec 32)
deriving DecidableEq, Repr

/-- R166: a change entry. -/
structure ChangeEntry where
  time : Time
  what : Change
deriving DecidableEq, Repr

/-- R166, R167, R169: the change queue, its overflow flag and the ATTN pin. -/
structure ChangeQueue where
  entries : List ChangeEntry
  overflow : Bool
  attn : Bool
deriving DecidableEq, Repr

/-- R30, R80, R132, R155: the eight station-level counters, in the order of READ-STATION. -/
structure StationCounters where
  duplicateDiscards : Counter
  staleDiscards : Counter
  unexpectedCircuit : Counter
  classMismatch : Counter
  staleEchoes : Counter
  invalidEchoes : Counter
  unexpectedCommands : Counter
  staleAnswers : Counter
deriving DecidableEq, Repr

/-! ### Station controller, configuration port and image (chapters 10 and 11) -/

/-- Section 4 of the scope: the station states. -/
inductive StationState where
  | noAddress
  | load
  | quiet
  | run
  | clash
deriving DecidableEq, Repr

/-- Chapter 10: the station controller.  `number` is the station number of the straps when it is valid (R172). -/
structure Controller where
  station : StationState
  number : Option Nat
  quiet : Timer
  sequence : BitVec 16
deriving DecidableEq, Repr

/-- R179: what a load byte names. -/
inductive RecordRef where
  | station
  | circuit (port : Fin 8)
  | command (command : Fin 4)
  | steer
deriving DecidableEq, Repr

/-- R178: the load pointer. -/
structure LoadPointer where
  record : RecordRef
  offset : Nat
deriving DecidableEq, Repr

/-- R178, R182: where the port stands in the sequence of bus events. -/
inductive BusPhase where
  /-- no transaction is open -/
  | idle
  /-- a START has come; the next byte is the address byte -/
  | address
  /-- a write transaction addressed to this port -/
  | writing
  /-- a read transaction addressed to this port; byte `i + 1` of the status is being sent -/
  | reading (i : Fin 4)
  /-- a transaction addressed elsewhere, or a read that the bus controller has ended by not acknowledging a byte -/
  | ignoring
deriving DecidableEq, Repr

/-- Chapter 10: the configuration port. -/
structure ConfigPort where
  /-- CFGA as sampled at reset release -/
  cfga : Bool
  phase : BusPhase
  pointer : Option LoadPointer
  refusing : Bool
  /-- whether the port acknowledged the last byte it judged -/
  ack : Bool
  /-- the status byte that the port is sending -/
  out : Option Byte
  /-- last CLOSE fault code, 0..4 -/
  fault : Nat
deriving DecidableEq, Repr

/-- R179, section 11.5: the image as octets. -/
structure Image where
  station : Vector Byte 6
  circuits : Vector (Vector Byte 13) 8
  commands : Vector (Vector Byte 6) 4
  steer : Vector Byte 32
deriving DecidableEq, Repr

/-- Station time and the processes that run with it.  `subTick` (the model's own) counts the 4 ns quanta since
the last tick; `interval` counts the ticks since the last interval event (R70); `sendLeft` is what remains of
the frame a lane is sending, in quanta (R16); `txPhase` is how far a port's transmit clock has come toward its
next falling edge, the fraction R111 carries from one interval to the next. -/
structure Clock where
  time : Time
  subTick : Nat
  interval : Nat
  sendLeft : PerLane Nat
  txPhase : Vector Nat 8
deriving DecidableEq, Repr

/-- The state of the FR316. -/
structure State where
  /-- RSTn is low -/
  rstLow : Bool
  clock : Clock
  ctl : Controller
  lanes : PerLane Forwarder
  /-- the duplicate table; place st − 1 is the entry of station st (R26) -/
  dup : Vector (Option DupEntry) 62
  stats : StationCounters
  marks : PerLane MarkLane
  /-- the 10 ms cadence of R31: the station time of the next MARK -/
  markTimer : Timer
  /-- the cadence of R120: the station time of the next echo round -/
  echoTimer : Timer
  /-- the peer table, by peer index (R36) -/
  peers : List Peer
  ports : Vector Port 8
  cmds : Vector Command 4
  /-- level of BLOCK -/
  block : Bool
  changes : ChangeQueue
  cfg : ConfigPort
  image : Image
  /-- the model's own: which of several events that come together is taken first (DESIGN CHOICE, log entry 3) -/
  tieBreak : List Nat
  /-- the commands that wait, first in first out -/
  pending : List Instr
deriving DecidableEq, Repr

/-! ### The values of cold reset, each beside the rule that states it -/

/-- R19: every lane counter 0. -/
def LaneCounters.zero : LaneCounters := ⟨0, 0, 0, 0, 0, 0, 0, 0, 0, 0⟩

/-- R19: both queues empty, the egress IDLE. -/
def Forwarder.reset : Forwarder := ⟨[], [], .idle, LaneCounters.zero⟩

/-- R34: CLOSED, no ring size, timer stopped. -/
def MarkLane.reset : MarkLane := ⟨.closed, none, none⟩

/-- R37: the dynamic parts of a peer's lane at CLOSE. -/
def PeerLane.reset : PeerLane := ⟨false, none, none, none, 0, [], none⟩

/-- R56: the line is LOST with its timer stopped, no bit gathered; LOSk is taken as deasserted (DESIGN CHOICE, log entry 5). -/
def Receiver.reset : Receiver := ⟨[], false, .lost, none⟩

/-- R56. -/
def Assembler.reset : Assembler := ⟨false, none, 0⟩

/-- R58: TXDk is held high; the store is empty. -/
def Transmitter.reset : Transmitter := ⟨[], 0, true, false⟩

/-- R81. -/
def Engine.reset : Engine := ⟨Vector.replicate 16 none, none, 0, 0, 0, false⟩

/-- R117: an OFF circuit has no clock loop (held as zeros, DESIGN CHOICE, log entry 6). -/
def ClockLoop.reset : ClockLoop := ⟨0, 0, 0, 0, 0⟩

/-- R90: the tally at 0 with its marks and flag clear. -/
def Tally.zero : Tally := ⟨false, false, 0, false⟩

/-- R103, R133: OFF, no loop, no current lane, flags clear, no delay figure. -/
def Circuit.reset : Circuit := ⟨.off, 0, none, Tally.zero, none, false, false, .none, none⟩

/-- R103: every circuit counter 0. -/
def CircuitCounters.zero : CircuitCounters := ⟨0, 0, 0, 0, 0, 0, 0, 0, 0, 0, 0, 0, 0, 0⟩

/-- A port in cold reset. -/
def Port.reset : Port :=
  ⟨Receiver.reset, Assembler.reset, Transmitter.reset, Engine.reset, ClockLoop.reset, Circuit.reset,
    CircuitCounters.zero⟩

/-- R155: no records, COk released, the qualifier DEASSERTED; CIk and TKk are taken as low (DESIGN CHOICE, log entry 5). -/
def Command.reset : Command := ⟨false, false, false, false, none, none, none⟩

/-- R170: no entries, the flag clear, ATTN low. -/
def ChangeQueue.empty : ChangeQueue := ⟨[], false, false⟩

/-- R30, R80, R132, R155: every station counter 0. -/
def StationCounters.zero : StationCounters := ⟨0, 0, 0, 0, 0, 0, 0, 0⟩

/-- R172: the port waits for a START with the load pointer absent and fault code 0. -/
def ConfigPort.reset : ConfigPort := ⟨false, .idle, none, false, false, none, 0⟩

/-- R179: instance value 0 and echo period 100 ms. -/
def Image.stationDefault : Vector Byte 6 := #v[0, 0, 0, 0, 0, 100]

/-- R179: disabled, far station 0, qualification 2, answer timeout 40, taken window 20, minimum hold 50. -/
def Image.commandDefault : Vector Byte 6 := #v[0, 0, 2, 40, 20, 50]

/-- R115: the default steer table, two octets an entry. -/
def Image.steerDefault : Vector Byte 32 :=
  #v[0, 0, 0, 2, 0, 5, 0, 10, 0, 20, 0, 40, 0, 80, 0, 160,
     0x01, 0x40, 0x02, 0x80, 0x03, 0xE8, 0x05, 0xDC, 0x07, 0xD0, 0x0B, 0xB8, 0x0F, 0xA0, 0x0F, 0xFF]

/-- R179: the image at cold reset. -/
def Image.reset : Image :=
  ⟨Image.stationDefault, Vector.replicate 8 (Vector.replicate 13 0), Vector.replicate 4 Image.commandDefault,
    Image.steerDefault⟩

/-- R171: station time 0, not yet counting. -/
def Clock.reset : Clock := ⟨0, 0, 0, PerLane.both 0, Vector.replicate 8 0⟩

/-- R172: no number, the quiet timer stopped, the frame sequence counter 0.  The station state while RSTn is
low is not read by any event; it is held as NO-ADDRESS (DESIGN CHOICE, log entry 4). -/
def Controller.reset : Controller := ⟨.noAddress, none, none, 0⟩

/-- The part held in cold reset after power-on: RSTn low, every block at its cold reset value, no command
waiting.  RESET_RELEASE starts it (DESIGN CHOICE, log entry 4). -/
def State.reset : State where
  rstLow := true
  clock := Clock.reset
  ctl := Controller.reset
  lanes := PerLane.both Forwarder.reset
  dup := Vector.replicate 62 none
  stats := StationCounters.zero
  marks := PerLane.both MarkLane.reset
  markTimer := none
  echoTimer := none
  peers := []
  ports := Vector.replicate 8 Port.reset
  cmds := Vector.replicate 4 Command.reset
  block := false
  changes := ChangeQueue.empty
  cfg := ConfigPort.reset
  image := Image.reset
  tieBreak := []
  pending := []

end Sys2Proof.Machine
end

