-- ==== Sys2Proof/Machine/Operands.lean ====
section
/-! DEFINITION. The operands of the FR316's events: fields of frames (sections 11.2 and 11.3), the check sequence
(R184), and the fields of the image records (section 11.5). -/

namespace Sys2Proof.Machine

/-! ### Octets and fields (R183) -/

/-- Octet `i` of a list, 0 beyond its end. -/
def oct (o : Octets) (i : Nat) : Byte := o.getD i 0

/-- R183: a field of two octets, most significant first. -/
def rd16 (o : Octets) (i : Nat) : BitVec 16 := oct o i ++ oct o (i + 1)

/-- R183: a field of four octets, most significant first. -/
def rd32 (o : Octets) (i : Nat) : BitVec 32 := rd16 o i ++ rd16 o (i + 2)

/-- R183: the octets of a two-octet field. -/
def be16 (v : BitVec 16) : Octets := [v.extractLsb' 8 8, v.extractLsb' 0 8]

/-- R183: the octets of a four-octet field. -/
def be32 (v : BitVec 32) : Octets :=
  [v.extractLsb' 24 8, v.extractLsb' 16 8, v.extractLsb' 8 8, v.extractLsb' 0 8]

/-- A small unsigned number in one octet. -/
def be8 (n : Nat) : Byte := BitVec.ofNat 8 n

/-- R183: a signed number in two's complement over four octets. -/
def beInt32 (v : Int) : Octets := be32 (BitVec.ofInt 32 v)

/-- A flag as a code: 1 set, 0 clear. -/
def boolCode (b : Bool) : Byte := if b then 1 else 0

/-- A flag at bit `i` of an octet. -/
def flagBit (i : Nat) (b : Bool) : Byte := if b then (1 : Byte) <<< i else 0

/-- Reserved and pad octets are sent as zero (R183): `n` of them. -/
def zeros (n : Nat) : Octets := List.replicate n 0

/-- R184: octets padded with zeros to at least `n`. -/
def padTo (n : Nat) (o : Octets) : Octets := o ++ zeros (n - o.length)

/-! ### The check sequence (R184) -/

/-- One bit of the check register. -/
def crcBit (c : BitVec 32) : BitVec 32 :=
  if c.getLsbD 31 then (c <<< 1) ^^^ 0x04C11DB7 else c <<< 1

/-- One octet into the check register, most significant bit first. -/
def crcOctet (c : BitVec 32) (b : Byte) : BitVec 32 :=
  crcBit (crcBit (crcBit (crcBit (crcBit (crcBit (crcBit (crcBit (c ^^^ (b.setWidth 32 <<< 24)))))))))

/-- R184: the check sequence of header and body. -/
def checkSequence (o : Octets) : BitVec 32 := ~~~ (o.foldl crcOctet 0xFFFFFFFF)

/-- Header and body with their check sequence appended. -/
def withCheck (o : Octets) : Octets := o ++ be32 (checkSequence o)

/-! ### The frame (section 11.2) -/

/-- The frame kinds. -/
inductive FrameKind where
  | trib
  | mark
  | echo
  | echoR
  | cmd
  | cmdAck
  | qry
  | qryR
deriving DecidableEq, Repr

/-- Section 11.2: the code of a kind. -/
def FrameKind.code : FrameKind → Byte
  | .trib => 1
  | .mark => 2
  | .echo => 3
  | .echoR => 4
  | .cmd => 5
  | .cmdAck => 6
  | .qry => 7
  | .qryR => 8

/-- The kind a code names. -/
def kindOf (b : Byte) : Option FrameKind :=
  match b.toNat with
  | 1 => some .trib
  | 2 => some .mark
  | 3 => some .echo
  | 4 => some .echoR
  | 5 => some .cmd
  | 6 => some .cmdAck
  | 7 => some .qry
  | 8 => some .qryR
  | _ => none

/-- Chapter 1: CMD and CMDACK are of the urgent class, every other kind is ordinary. -/
def isUrgent (f : Octets) : Bool := oct f 0 == FrameKind.cmd.code || oct f 0 == FrameKind.cmdAck.code

def frameVersion (f : Octets) : Byte := oct f 1
/-- R183: a station number occupies the low six bits of its octet. -/
def frameSource (f : Octets) : Nat := (oct f 2).toNat % 64
def frameDest (f : Octets) : Nat := (oct f 3).toNat % 64
def frameHop (f : Octets) : Nat := (oct f 4).toNat
def frameSeq (f : Octets) : BitVec 16 := rd16 f 5
def frameBodyLength (f : Octets) : Nat := (rd16 f 7).toNat
/-- The body of a frame that is as long as its header says. -/
def frameBody (f : Octets) : Octets := (f.drop 9).take (frameBodyLength f)

/-- R2: the octets received agree with the length the header implies and with the check sequence. -/
def checkPasses (f : Octets) : Bool :=
  13 ≤ f.length && f.length == frameBodyLength f + 13 &&
    rd32 f (f.length - 4) == checkSequence (f.take (f.length - 4))

/-! ### Rate classes (R42) -/

/-- R42: the rate class of a circuit. -/
inductive RateClass where
  | W
  | N
  | S
deriving DecidableEq, Repr

/-- R42: octets of one cell, N. -/
def RateClass.octets : RateClass → Nat
  | .W => 256
  | .N => 193
  | .S => 8

/-- R104: the band width B of the clock loop. -/
def RateClass.band : RateClass → Nat
  | .W => 16
  | .N => 12
  | .S => 1

/-- Section 11.3: the class code. -/
def RateClass.code : RateClass → Byte
  | .W => 0
  | .N => 1
  | .S => 2

/-- The class a code names. -/
def classOf (n : Nat) : Option RateClass :=
  match n with
  | 0 => some .W
  | 1 => some .N
  | 2 => some .S
  | _ => none

/-- R184: the fields of a TRIB of this class, padded to the least body. -/
def RateClass.bodyLength (c : RateClass) : Nat := max Config.minBody (6 + c.octets)

/-- R184, R185: the required body length of a QRY-R (of other status octets DEDUCED, log entry 16). -/
def replyBodyLength (body : Octets) : Option Nat :=
  if oct body 4 == 0 then
    match (oct body 0).toNat with
    | 1 => some 132
    | 2 => some 100
    | 3 => some 98
    | 5 => if (oct body 6).toNat ≤ 8 then some (max Config.minBody (8 + 10 * (oct body 6).toNat)) else none
    | _ => some Config.minBody
  else some Config.minBody

/-- R184: the body length that the kind requires; none where no length would do. -/
def requiredBody (k : FrameKind) (body : Octets) : Option Nat :=
  match k with
  | .trib => (classOf (oct body 2).toNat).map RateClass.bodyLength
  | .qryR => replyBodyLength body
  | .mark | .echo | .echoR | .cmd | .cmdAck | .qry => some Config.minBody

/-- R3: a frame that passes its check is malformed when one of these holds.  A body too short to hold the
fields its length depends on is shorter than 47 octets, which no kind requires (R184). -/
def malformed (f : Octets) : Bool :=
  match kindOf (oct f 0) with
  | none => true
  | some k =>
    frameVersion f != 1 || frameSource f == 0 || frameSource f == 63 || frameDest f == 0 ||
      63 < frameHop f || requiredBody k (frameBody f) != some (frameBodyLength f)

/-- Section 11.2: the header of an originated frame, with hop count 63 (R11), and its body. -/
def buildFrame (k : FrameKind) (src dst : Nat) (seq : BitVec 16) (body : Octets) : Octets :=
  [k.code, 1, be8 (src % 64), be8 (dst % 64), be8 Config.originHop] ++ be16 seq ++
    be16 (BitVec.ofNat 16 body.length) ++ body

/-- R8: the forwarded copy, its hop count lowered by one and its check sequence computed again. -/
def forwardedCopy (f : Octets) : Octets :=
  withCheck ((f.take (f.length - 4)).set 4 (oct f 4 - 1))

/-- R17: four octets written into the frame at offset `i`. -/
def stampAt (f : Octets) (i : Nat) (t : Time) : Octets :=
  f.take i ++ be32 t ++ f.drop (i + 4)

/-- R17, section 11.3: the frame as granted, t1 of an ECHO or t3 of an ECHO-R stamped. -/
def stamped (f : Octets) (t : Time) : Octets :=
  if oct f 0 == FrameKind.echo.code then stampAt f 9 t
  else if oct f 0 == FrameKind.echoR.code then stampAt f 17 t
  else f

/-! ### The TRIB body (section 11.3) -/

def tribDestPort (body : Octets) : Fin 8 := Fin.ofNat 8 (oct body 0).toNat
def tribSourcePort (body : Octets) : Nat := (oct body 1).toNat % 8
def tribClass (body : Octets) : Option RateClass := classOf (oct body 2).toNat
def tribSrcLost (body : Octets) : Bool := (oct body 3).getLsbD 7
def tribCount (body : Octets) : BitVec 16 := rd16 body 4
def tribPayload (n : Nat) (body : Octets) : Octets := (body.drop 6).take n

/-- R52, R185: the sender lane mode; the lane on which the sender receives, none for FIRST and for code 3. -/
def tribSenderLane (body : Octets) : Option Lane :=
  match (oct body 3).toNat % 4 with
  | 1 => some .A
  | 2 => some .B
  | _ => none

/-- Section 11.3: the code of a lane that may be absent. -/
def laneCode : Option Lane → Byte
  | none => 0
  | some .A => 1
  | some .B => 2

/-- R52, section 11.3: the body of a TRIB. -/
def tribBody (destPort srcPort : Nat) (cls : RateClass) (srcLost : Bool) (mode : Option Lane)
    (count : BitVec 16) (payload : Octets) : Octets :=
  padTo Config.minBody ([be8 destPort, be8 srcPort, cls.code, flagBit 7 srcLost ||| laneCode mode] ++
    be16 count ++ payload)

/-! ### The image records (section 11.5) -/

/-- R89: how a circuit chooses among the two copies of each cell. -/
inductive LaneMode where
  | first
  | pinA
  | pinB
deriving DecidableEq, Repr

/-- R135: the direction of a command. -/
inductive Direction where
  | disabled
  | send
  | receive
  | both
deriving DecidableEq, Repr

/-- One circuit record of the image. -/
abbrev CircuitRecord := Vector Byte 13

/-- One command record of the image. -/
abbrev CommandRecord := Vector Byte 6

/-- Section 11.5: bit 7 of octet 0. -/
def recEnabled (r : CircuitRecord) : Bool := r[0].getLsbD 7

/-- Section 11.5: the class code, bits 3..2 of octet 0; R181: 3 reads as the first value, W. -/
def recClass (r : CircuitRecord) : RateClass := (classOf (r[0].toNat / 4 % 4)).getD .W

/-- Section 11.5: the lane mode code, bits 1..0 of octet 0; R181: 3 reads as the first value, FIRST. -/
def recMode (r : CircuitRecord) : LaneMode :=
  match r[0].toNat % 4 with
  | 1 => .pinA
  | 2 => .pinB
  | _ => .first

/-- Section 5.1: the configured lane of a pinned circuit. -/
def LaneMode.configured : LaneMode → Option Lane
  | .first => none
  | .pinA => some .A
  | .pinB => some .B

/-- Section 11.4: the lane mode code. -/
def LaneMode.code : LaneMode → Byte
  | .first => 0
  | .pinA => 1
  | .pinB => 2

/-- The octets of one cell of the circuit, N (R42). -/
def recN (r : CircuitRecord) : Nat := (recClass r).octets

def recFarStation (r : CircuitRecord) : Nat := r[1].toNat
def recFarPort (r : CircuitRecord) : Nat := r[2].toNat
def recTarget (r : CircuitRecord) : Nat := r[3].toNat
def recFlush (r : CircuitRecord) : Nat := r[4].toNat
def recStarvation (r : CircuitRecord) : Nat := r[5].toNat
def recSwitchLimit (r : CircuitRecord) : Nat := r[6].toNat
def recRevertWait (r : CircuitRecord) : Nat := r[7].toNat
def recGain (r : CircuitRecord) : Nat := r[8].toNat
def recBudget (r : CircuitRecord) : Nat := (r[11] ++ r[12] : BitVec 16).toNat

/-- R104: the target fill T. -/
def recTargetFill (r : CircuitRecord) : Nat := recTarget r * recN r

/-- R73: a fill octet. -/
def recFillOctet (r : CircuitRecord) : Byte := if r[9] == 1 then r[10] else 0xFF

/-- Section 11.5: the direction; R181: a code above 3 reads as the first value, disabled. -/
def cmdDirection (r : CommandRecord) : Direction :=
  match r[0].toNat with
  | 1 => .send
  | 2 => .receive
  | 3 => .both
  | _ => .disabled

/-- Section 11.4: the direction code. -/
def Direction.code : Direction → Byte
  | .disabled => 0
  | .send => 1
  | .receive => 2
  | .both => 3

/-- R135: a command that sends has an outgoing record. -/
def Direction.sends : Direction → Bool
  | .send => true
  | .both => true
  | .disabled => false
  | .receive => false

/-- R135: a command that receives has an incoming record. -/
def Direction.receives : Direction → Bool
  | .receive => true
  | .both => true
  | .disabled => false
  | .send => false

def cmdFarStation (r : CommandRecord) : Nat := r[1].toNat
def cmdQualification (r : CommandRecord) : Nat := r[2].toNat
def cmdAnswerTimeout (r : CommandRecord) : Nat := r[3].toNat
def cmdTakenWindow (r : CommandRecord) : Nat := r[4].toNat
def cmdMinimumHold (r : CommandRecord) : Nat := r[5].toNat

/-- R179: the instance value of the station record. -/
def Image.instanceValue (im : Image) : BitVec 32 := rd32 im.station.toList 0

/-- R120: the echo period in ms. -/
def Image.echoPeriod (im : Image) : Nat := (rd16 im.station.toList 4).toNat

/-- R115: entry `j` of the steer table. -/
def Image.steerEntry (im : Image) (j : Nat) : Nat := (rd16 im.steer.toList (2 * j)).toNat

end Sys2Proof.Machine
end

