-- ==== Sys2Proof/Machine/Ops.lean ====
section
/-! DEFINITION. The shared operations: reading and changing one component of the state, counters that stop at
their limit (R163), station time and timers (R171), the change queue (R167), and the order of events that come
together. -/

namespace Sys2Proof.Machine

/-- The outcome of a command. -/
abbrev Result := Host.Outcome State Fault Refusal

/-! ### Components -/

def State.forwarder (s : State) (L : Lane) : Forwarder := s.lanes.get L
def State.modForwarder (s : State) (L : Lane) (f : Forwarder → Forwarder) : State :=
  { s with lanes := s.lanes.set L (f (s.lanes.get L)) }

def State.mark (s : State) (L : Lane) : MarkLane := s.marks.get L
def State.modMark (s : State) (L : Lane) (f : MarkLane → MarkLane) : State :=
  { s with marks := s.marks.set L (f (s.marks.get L)) }

def State.port (s : State) (p : Fin 8) : Port := s.ports[p]
def State.modPort (s : State) (p : Fin 8) (f : Port → Port) : State :=
  { s with ports := s.ports.set p (f s.ports[p]) }

def State.cmd (s : State) (k : Fin 4) : Command := s.cmds[k]
def State.modCmd (s : State) (k : Fin 4) (f : Command → Command) : State :=
  { s with cmds := s.cmds.set k (f s.cmds[k]) }

def State.modPeer (s : State) (i : Nat) (f : Peer → Peer) : State := { s with peers := s.peers.modify i f }

/-- One lane part of a peer record changed. -/
def State.modPeerLane (s : State) (i : Nat) (L : Lane) (f : PeerLane → PeerLane) : State :=
  s.modPeer i fun r => { r with lanes := r.lanes.set L (f (r.lanes.get L)) }

def State.modStats (s : State) (f : StationCounters → StationCounters) : State := { s with stats := f s.stats }

/-- The image record of port `p`'s circuit. -/
def State.setting (s : State) (p : Fin 8) : CircuitRecord := s.image.circuits[p]

/-- The image record of command `k`. -/
def State.cmdSetting (s : State) (k : Fin 4) : CommandRecord := s.image.commands[k]

/-- Every port changed alike. -/
def State.mapPorts (s : State) (f : Fin 8 → Port → Port) : State :=
  { s with ports := Vector.ofFn fun p => f p s.ports[p] }

/-- Every command changed alike. -/
def State.mapCmds (s : State) (f : Fin 4 → Command → Command) : State :=
  { s with cmds := Vector.ofFn fun k => f k s.cmds[k] }

/-- A circuit is enabled from the successful CLOSE on when its record is: it is not OFF (R82). -/
def Port.enabled (p : Port) : Bool := p.circuit.state != .off

/-- The image is closed: the station is in QUIET, RUN or CLASH (R178). -/
def State.closed (s : State) : Bool :=
  s.ctl.station == .quiet || s.ctl.station == .run || s.ctl.station == .clash

/-- The index of the peer record of a station (R36). -/
def State.peerIndex (s : State) (station : Nat) : Option Nat :=
  s.peers.findIdx? fun r => r.station == station

/-! ### Counters (R163) -/

/-- R163: a counter adds one and stops at 4,294,967,295. -/
def bump (c : Counter) : Counter := if c == 0xFFFFFFFF then c else c + 1

/-- A lane counter of lane `L` changed. -/
def State.countLane (s : State) (L : Lane) (f : LaneCounters → LaneCounters) : State :=
  s.modForwarder L fun l => { l with counts := f l.counts }

/-- A circuit counter of port `p` changed. -/
def State.countPort (s : State) (p : Fin 8) (f : CircuitCounters → CircuitCounters) : State :=
  s.modPort p fun q => { q with counts := f q.counts }

/-! ### Station time (R171) and the processes that run with it -/

/-- Station time. -/
def State.now (s : State) : Time := s.clock.time

/-- The station time `ticks` from now: where a timer of that many ticks expires (R171). -/
def State.after (s : State) (ticks : Nat) : Time := s.clock.time + BitVec.ofNat 32 ticks

/-- R171: a timer running to `t` has expired: station time has come to `t`, the difference being taken modulo
2^32 (no timer runs longer than 60 s, far less than half the span; DEDUCED, log entry 18). -/
def expired (now t : Time) : Bool := (now - t).toNat < 2147483648

/-- The rate class at which port `p`'s transmit clock runs: W until the first successful CLOSE (R58). -/
def State.txClass (s : State) (p : Fin 8) : RateClass :=
  if s.closed then recClass (s.setting p) else .W

/-- What one quantum of time adds to port `p`'s transmit clock (R58, R111): the nominal rate for a disabled
port, the corrected one for an enabled port, nothing in line loop, where TXCk repeats RXCk (R59). -/
def State.txRate (s : State) (p : Fin 8) : Nat :=
  let n := (s.txClass p).octets
  let q := s.port p
  if q.enabled then
    if q.circuit.loop == .line then 0 else 8 * n * (1000000000 + q.clk.applied).toNat
  else 8 * n * 1000000000

/-- `k` quanta of 4 ns pass: station time, the time since the last interval event, the frames being sent and
the transmit clocks move on. -/
def State.elapse (s : State) (k : Nat) : State :=
  let total := s.clock.subTick + k
  let ticks := total / Config.quantaPerTick
  { s with clock :=
    { time := s.clock.time + BitVec.ofNat 32 ticks
      subTick := total % Config.quantaPerTick
      interval := s.clock.interval + ticks
      sendLeft := s.clock.sendLeft.map (· - k)
      txPhase := Vector.ofFn fun p : Fin 8 => s.clock.txPhase[p] + k * s.txRate p } }

/-- `n` ticks pass, to the beginning of the `n`-th tick from now (none pass for `n` = 0). -/
def State.elapseTicks (s : State) (n : Nat) : State :=
  if n = 0 then s else s.elapse (n * Config.quantaPerTick - s.clock.subTick)

/-- The timed event that falls at station time `t` is taken: where `t` lies ahead, time passes until it
(DESIGN CHOICE, log entry 2). -/
def State.reach (s : State) (t : Time) : State :=
  if expired s.now t then s else s.elapseTicks (t - s.now).toNat

/-- The expiry of a timer: a stopped timer does not expire (R153), a running one expires at its station time. -/
def State.onExpiry (s : State) (timer : Timer) (f : State → State) : State :=
  match timer with
  | none => s
  | some t => f (s.reach t)

/-- While RSTn is low nothing is sent, received, sampled or taken (R19, R56, R172, R178); every event but
those that say otherwise is without effect. -/
def State.running (s : State) (f : State → State) : State := if s.rstLow then s else f s

/-! ### The change queue (R166, R167, R169) -/

/-- R167: an entry joins the back with the station time, or is lost and sets the overflow flag. R169: ATTN is
asserted when an entry joins. -/
def State.pushChange (s : State) (c : Change) : State :=
  if s.changes.entries.length < Config.changeCapacity then
    { s with changes := { s.changes with entries := s.changes.entries ++ [⟨s.now, c⟩], attn := true } }
  else { s with changes := { s.changes with overflow := true } }

/-- Entries made one after another. -/
def State.pushChanges (s : State) (cs : List Change) : State := cs.foldl State.pushChange s

/-! ### Events that come together -/

/-- A list in the order that the choices `cs` pick, and the choices left; each place of two candidates or more
uses one choice, and a missing choice picks the first. -/
def arrange {α : Type} : Nat → List Nat → List α → List α × List Nat
  | 0, cs, l => (l, cs)
  | _ + 1, cs, [] => ([], cs)
  | _ + 1, cs, [x] => ([x], cs)
  | fuel + 1, cs, x :: y :: l =>
    let i := cs.headD 0 % (l.length + 2)
    let chosen := ((x :: y :: l)[i]?).getD x
    let (rest, cs') := arrange fuel cs.tail ((x :: y :: l).eraseIdx i)
    (chosen :: rest, cs')

/-- Events that come together, taken in the order the state's choices give (each order is a correct operation
of the part, R15, R88, R166, R173). -/
def State.inSomeOrder {α : Type} (s : State) (l : List α) (f : α → State → State) : State :=
  let r := arrange l.length s.tieBreak l
  r.1.foldl (fun s a => f a s) { s with tieBreak := r.2 }

/-- Two events that come together. -/
def State.inEitherOrder (s : State) (f g : State → State) : State :=
  s.inSomeOrder [true, false] fun b => if b then f else g

/-- The eight ports. -/
def allPorts : List (Fin 8) := [0, 1, 2, 3, 4, 5, 6, 7]

/-- The four commands. -/
def allCommands : List (Fin 4) := [0, 1, 2, 3]

/-- Both lanes. -/
def allLanes : List Lane := [.A, .B]

end Sys2Proof.Machine
end

