-- ==== Sys2Proof/Machine/Flags.lean ====
section
/-! DEFINITION. The two flags of a circuit: ASYMMETRIC (R96), and OVER-BUDGET with the circuit delay figure it is
judged on (R129 to R131). -/

namespace Sys2Proof.Machine

/-! ### ASYMMETRIC -/

/-- R96: the flag is clear when the circuit is pinned (its current lane is present), the sender lane mode is a
lane, and that lane is the opposite of the current lane; in every other case it is set. -/
def asymmetricFor (current sender : Option Lane) : Bool :=
  match current, sender with
  | some c, some x => x != c.other
  | _, _ => true

/-- R96: a far-end cell's sender lane mode sets or clears the flag, with an entry when the flag changes. -/
def updateAsymmetric (p : Fin 8) (sender : Option Lane) (s : State) : State :=
  let new := asymmetricFor (s.port p).circuit.current sender
  if (s.port p).circuit.asymmetric == new then s
  else
    (s.modPort p fun q => { q with circuit := { q.circuit with asymmetric := new } }).pushChange
      (.asymmetry p new)

/-! ### OVER-BUDGET -/

/-- The peer record of a circuit's far station. -/
def State.farPeer (s : State) (p : Fin 8) : Option Peer :=
  s.peers.find? fun r => r.station == recFarStation (s.setting p)

/-- R92, R94: the far peer of circuit `p` is present on lane `L`. -/
def State.farPresent (s : State) (p : Fin 8) (L : Lane) : Bool :=
  match s.farPeer p with
  | none => false
  | some r => (r.lanes.get L).present

/-- R129: a FIRST circuit takes a lane's figure when the peer is present on it. -/
def PeerLane.qualifying (l : PeerLane) : Option Nat := if l.present then l.figure else none

/-- The smaller of two optional figures; the one that is there when only one is. -/
def smallerFigure : Option Nat → Option Nat → Option Nat
  | some a, some b => some (min a b)
  | some a, none => some a
  | none, b => b

/-- R129: the path figure of the circuit's reception lane. -/
def receptionFigure (mode : LaneMode) (current : Option Lane) (r : Peer) : Option Nat :=
  match mode with
  | .first => smallerFigure r.lanes.a.qualifying r.lanes.b.qualifying
  | .pinA | .pinB =>
    match current with
    | none => none
    | some L => (r.lanes.get L).figure

/-- R129: path figure, one cell of assembly, and the target in cells. -/
def State.delayFigure (s : State) (p : Fin 8) : Option Nat :=
  match s.farPeer p with
  | none => none
  | some r =>
    (receptionFigure (recMode (s.setting p)) (s.port p).circuit.current r).map fun f =>
      f + 10000 + recTarget (s.setting p) * 10000

/-- R131: the budget is 1 or more, the figure is present and exceeds the budget times 1,000 ticks. -/
def overBudgetFor (budget : Nat) (figure : Option Nat) : Bool :=
  match figure with
  | none => false
  | some f => 1 ≤ budget && budget * 1000 < f

/-- R130, R131: the delay figure and the flag of an enabled circuit are computed again, with a BUDGET entry when
the flag changes. -/
def evaluateDelay (p : Fin 8) (s : State) : State :=
  if (s.port p).enabled then
    let fig := s.delayFigure p
    let flag := overBudgetFor (recBudget (s.setting p)) fig
    let s1 := s.modPort p fun q => { q with circuit := { q.circuit with delay := fig, overBudget := flag } }
    if (s.port p).circuit.overBudget == flag then s1 else s1.pushChange (.budget p flag)
  else s

end Sys2Proof.Machine
end

