-- ==== Sys2Proof/Machine/Delay.lean ====
section
/-! DEFINITION. The delay unit's samples and figures (chapter 7): filing a granted ECHO, emptying and adding to a
sample ring.  The sending and answering of echoes stand with the ring lanes' offers, in Echo.lean. -/

namespace Sys2Proof.Machine

/-- R128: the smallest sample divided by 2 and truncated; absent when the ring is empty. -/
def pathFigure (samples : List Nat) : Option Nat := samples.min?.map (· / 2)

/-- R127: a sample joins the ring as the newest, the oldest being removed when the ring holds 8.  The removal and the
addition are one change of the ring, after which the figure is computed once (DESIGN CHOICE, log entry 27). -/
def addSample (samples : List Nat) (x : Nat) : List Nat :=
  (if Config.sampleCapacity ≤ samples.length then samples.tail else samples) ++ [x]

/-- R36: the ports of a peer's circuit role. -/
def Peer.rolePorts (r : Peer) : List (Fin 8) := allPorts.filter fun p => r.circuits.getLsbD p.val

/-- R128: a lane part's sample ring changes, its path figure is computed again, once (DESIGN CHOICE, log entry 27), and
a change of the figure is taken to the circuits of the peer's circuit role. -/
def setSamples (i : Nat) (L : Lane) (samples : List Nat) (s : State) : State :=
  match s.peers[i]? with
  | none => s
  | some r =>
    let fig := pathFigure samples
    let s1 := s.modPeerLane i L fun l => { l with samples := samples, figure := fig }
    if (r.lanes.get L).figure == fig then s1 else s1.inSomeOrder r.rolePorts evaluateDelay

/-- R122: a lane part whose missed count stands at 3 is unmeasured. -/
def unmeasure (i : Nat) (L : Lane) (s : State) : State :=
  match s.peers[i]? with
  | none => s
  | some r => if (r.lanes.get L).missed = 3 then setSamples i L [] s else s

/-- R121: the t1 of an ECHO granted on lane `X` to a station is filed in the opposite lane part of its peer
record; an outstanding echo that it replaces counts as missed. -/
def fileEcho (X : Lane) (station : Nat) (t1 : Time) (s : State) : State :=
  match s.peerIndex station with
  | none => s
  | some i =>
    match s.peers[i]? with
    | none => s
    | some r =>
      match (r.lanes.get X.other).outstanding with
      | none => s.modPeerLane i X.other fun l => { l with outstanding := some t1 }
      | some _ =>
        unmeasure i X.other (s.modPeerLane i X.other fun l =>
          { l with outstanding := some t1, missed := min 3 (l.missed + 1) })

/-- ECHO_UNMEASURED (R122).  The delay unit works in RUN; in CLASH every echo part is held (R134). -/
def execEchoUnmeasured (peer : Fin 12) (lane : Lane) (s : State) : Result :=
  .next (s.running fun s => if s.ctl.station == .run then unmeasure peer.val lane s else s)

end Sys2Proof.Machine
end

