-- ==== Sys2Proof/Machine/Lanes.lean ====
section
/-! DEFINITION. The queues and the egress of a lane forwarder (sections 1.3 to 1.5): joining the transit queue,
offering a frame to a local queue, the grant, the completion, and the origination of a frame (R11). -/

namespace Sys2Proof.Machine

/-! ### The arbiter's choice -/

/-- R14: the oldest urgent frame of a queue and the queue without it. -/
def oldestUrgent : List Octets → Option (Octets × List Octets)
  | [] => none
  | f :: fs =>
    if isUrgent f then some (f, fs)
    else
      match oldestUrgent fs with
      | none => none
      | some (g, rest) => some (g, f :: rest)

/-- R13: the queue without its newest ordinary frame, when it holds one. -/
def dropNewestOrdinary : List Octets → Option (List Octets)
  | [] => none
  | f :: fs =>
    match dropNewestOrdinary fs with
    | some rest => some (f :: rest)
    | none => if isUrgent f then none else some fs

/-- R14: the frame that the arbiter grants, whether it is one of this station's own, and the queues without it. -/
def nextFrame (l : Forwarder) : Option (Bool × Octets × Forwarder) :=
  match oldestUrgent l.localQ with
  | some (f, rest) => some (true, f, { l with localQ := rest })
  | none =>
    match l.transit with
    | f :: rest => some (false, f, { l with transit := rest })
    | [] =>
      match l.localQ with
      | f :: rest => some (true, f, { l with localQ := rest })
      | [] => none

/-! ### Grant and completion -/

/-- R16: the egress sends these octets, 8 ns each, to the quantum (DEDUCED, log entry 7). -/
def startSending (L : Lane) (frame : Octets) (s : State) : State :=
  let s1 := s.modForwarder L fun l => { l with egress := .sending frame }
  { s1 with clock := { s1.clock with
      sendLeft := s1.clock.sendLeft.set L (frame.length * Config.quantaPerOctet) } }

/-- R14, R15, R17: with the egress IDLE and a frame waiting, the arbiter grants.  A transit frame is sent as it
joined; an own frame is stamped when it is an ECHO or ECHO-R, takes its check sequence, and an ECHO's t1 is
reported to the delay unit. -/
def grant (L : Lane) (s : State) : State :=
  match (s.forwarder L).egress with
  | .sending _ => s
  | .idle =>
    match nextFrame (s.forwarder L) with
    | none => s
    | some (own, f, rest) =>
      let s1 := s.modForwarder L fun _ => rest
      if own then
        let g := stamped f s.now
        let s2 := startSending L (withCheck g) s1
        if oct g 0 == FrameKind.echo.code then fileEcho L (frameDest g) s.now s2 else s2
      else startSending L f s1

/-- R16: a transmission ends: the egress becomes IDLE, *frames sent* adds one, and the arbiter grants again. -/
def complete (L : Lane) (s : State) : State :=
  grant L (s.modForwarder L fun l =>
    { l with egress := .idle, counts := { l.counts with framesSent := bump l.counts.framesSent } })

/-! ### Joining the queues -/

/-- R8: a forwarded copy joins the back of the transit queue, or is dropped when the queue holds 16 frames. -/
def joinTransit (L : Lane) (copy : Octets) (s : State) : State :=
  if (s.forwarder L).transit.length < Config.transitCapacity then
    grant L (s.modForwarder L fun l =>
      { l with transit := l.transit ++ [copy],
               counts := { l.counts with framesForwarded := bump l.counts.framesForwarded } })
  else s.countLane L fun c => { c with transitDrops := bump c.transitDrops }

/-- R12, R13: a frame offered to a local queue. -/
def offer (f : Octets) (L : Lane) (s : State) : State :=
  let q := (s.forwarder L).localQ
  if q.length < Config.localCapacity then
    grant L (s.modForwarder L fun l => { l with localQ := l.localQ ++ [f] })
  else
    match if isUrgent f then dropNewestOrdinary q else none with
    | some rest =>
      grant L (s.modForwarder L fun l =>
        { l with localQ := rest ++ [f], counts := { l.counts with localDrops := bump l.counts.localDrops } })
    | none => s.countLane L fun c => { c with localDrops := bump c.localDrops }

/-! ### Origination (R11, R173) -/

/-- R11: outside RUN the offer is discarded and takes no sequence value; in RUN the frame takes the next value
and one copy is offered to each of the lanes named. -/
def originate (k : FrameKind) (dst : Nat) (body : Octets) (lanes : List Lane) (s : State) : State :=
  if s.ctl.station == .run then
    let f := buildFrame k (s.ctl.number.getD 0) dst s.ctl.sequence (padTo Config.minBody body)
    lanes.foldl (fun s L => offer f L s) { s with ctl := { s.ctl with sequence := s.ctl.sequence + 1 } }
  else s

/-- TRANSMISSION_COMPLETION (R16): the frame being sent completes L × 8 ns after its grant.  An IDLE egress has
no completion. -/
def execTransmissionCompletion (lane : Lane) (s : State) : Result :=
  .next (s.running fun s =>
    match (s.forwarder lane).egress with
    | .idle => s
    | .sending _ => complete lane (s.elapse (s.clock.sendLeft.get lane)))

end Sys2Proof.Machine
end

