-- ==== Sys2Proof/Machine/Commands.lean ====
section
/-! DEFINITION. The command unit (chapter 8): qualifiers, outgoing records, incoming records and their pins. -/

namespace Sys2Proof.Machine

/-! ### Records -/

/-- R139: an outgoing record at CLOSE, and after a warm restart or entry to CLASH with its activation number
kept (R153, R154). -/
def Outgoing.fresh (activation : BitVec 8) : Outgoing := ⟨.idle, activation, .none, none, 0, none, none⟩

/-- R145: an incoming record at CLOSE, after a warm restart and at entry to CLASH. -/
def Incoming.fresh : Incoming := ⟨.idle, none, none, none, none, none, none, none⟩

def State.modOutgoing (s : State) (k : Fin 4) (f : Outgoing → Outgoing) : State :=
  s.modCmd k fun c => { c with outgoing := c.outgoing.map f }

def State.modIncoming (s : State) (k : Fin 4) (f : Incoming → Incoming) : State :=
  s.modCmd k fun c => { c with incoming := c.incoming.map f }

/-- Section 11.3: the octet of a set of conditions. -/
def Conditions.code (c : Conditions) : Byte :=
  flagBit 0 c.taken ||| flagBit 1 c.already ||| flagBit 2 c.blocked

/-- Section 11.3: the conditions in an octet. -/
def conditionsOf (b : Byte) : Conditions := ⟨b.getLsbD 0, b.getLsbD 1, b.getLsbD 2⟩

/-- R138: the command number as it stands in a frame, 1..4. -/
def commandNumber (k : Fin 4) : Byte := be8 (k.val + 1)

/-- R138: the command that a frame's number names. -/
def commandOf (b : Byte) : Option (Fin 4) :=
  match b.toNat with
  | 1 => some 0
  | 2 => some 1
  | 3 => some 2
  | 4 => some 3
  | _ => none

/-! ### The sending side (section 8.3) -/

/-- R138: a CMD to the command's far station. -/
def sendCmd (k : Fin 4) (on : Bool) (activation : BitVec 8) (s : State) : State :=
  originate .cmd (cmdFarStation (s.cmdSetting k)) [commandNumber k, boolCode on, activation] allLanes s

/-- R140: a qualified assertion taken in RUN starts a new activation. -/
def takeAssertion (k : Fin 4) (s : State) : State :=
  match (s.cmd k).outgoing with
  | none => s
  | some o =>
    let act := o.activation + 1
    let s1 := s.modOutgoing k fun _ =>
      { activity := .on, activation := act, answer := .awaiting, conditions := none, offLeft := 0
        repeatTimer := some (s.after Config.repeatPeriod)
        answerTimer := some (s.after (cmdAnswerTimeout (s.cmdSetting k) * Config.ticksPerMs)) }
    (sendCmd k true act s1).pushChange (.cmdSent k act)

/-- R142: a qualified deassertion taken in RUN while the activity is ON begins the release with the first of
three OFF frames. -/
def takeDeassertion (k : Fin 4) (s : State) : State :=
  match (s.cmd k).outgoing with
  | none => s
  | some o =>
    match o.activity with
    | .on =>
      sendCmd k false o.activation (s.modOutgoing k fun o =>
        { o with activity := .releasing, offLeft := 2, repeatTimer := some (s.after Config.repeatPeriod) })
    | .idle => s
    | .releasing => s

/-- R136, R140, R142: a qualified change is taken: the qualified level takes the pin's level, and in RUN the
outgoing record takes the change. -/
def takeQualified (k : Fin 4) (s : State) : State :=
  let level := (s.cmd k).ci
  let s1 := s.modCmd k fun c => { c with qualified := level, qualTimer := none }
  if s.ctl.station == .run then (if level then takeAssertion k s1 else takeDeassertion k s1) else s1

/-- R136: the pin's level has changed: a level that differs from the qualified one starts the timer, or is taken
at once when the qualification time is 0; a return to the qualified level stops it. -/
def judgePin (k : Fin 4) (s : State) : State :=
  let c := s.cmd k
  if c.outgoing.isNone then s
  else if c.ci == c.qualified then s.modCmd k fun c => { c with qualTimer := none }
  else if cmdQualification (s.cmdSetting k) = 0 then takeQualified k s
  else s.modCmd k fun c =>
    { c with qualTimer := some (s.after (cmdQualification (s.cmdSetting k) * Config.ticksPerMs)) }

/-- CI_CHANGE (R135, R136): the pin takes a level; with an outgoing record a change of the level is judged. -/
def execCiChange (command : Fin 4) (level : Bool) (s : State) : Result :=
  let s1 := s.modCmd command fun c => { c with ci := level }
  .next (if s.rstLow || (s.cmd command).ci == level then s1 else judgePin command s1)

/-- QUALIFICATION_EXPIRY (R136). -/
def execQualificationExpiry (command : Fin 4) (s : State) : Result :=
  .next (s.running fun s => s.onExpiry (s.cmd command).qualTimer (takeQualified command))

/-- R141, R142: the repeat timer expires: one more ON, or the next OFF of a release; after the third OFF the
record is IDLE. -/
def repeatCmd (k : Fin 4) (s : State) : State :=
  match (s.cmd k).outgoing with
  | none => s
  | some o =>
    match o.activity with
    | .on =>
      sendCmd k true o.activation (s.modOutgoing k fun o =>
        { o with repeatTimer := some (s.after Config.repeatPeriod) })
    | .releasing =>
      sendCmd k false o.activation (s.modOutgoing k fun o =>
        if o.offLeft ≤ 1 then { o with activity := .idle, offLeft := 0, repeatTimer := none }
        else { o with offLeft := o.offLeft - 1, repeatTimer := some (s.after Config.repeatPeriod) })
    | .idle => s.modOutgoing k fun o => { o with repeatTimer := none }

/-- REPEAT_TIMER_EXPIRY (R141, R142). -/
def execRepeatTimerExpiry (command : Fin 4) (s : State) : Result :=
  .next (s.running fun s =>
    match (s.cmd command).outgoing with
    | none => s
    | some o => s.onExpiry o.repeatTimer (repeatCmd command))

/-- R144: the answer timer expires while the answer is awaited. -/
def expireAnswer (k : Fin 4) (s : State) : State :=
  match (s.cmd k).outgoing with
  | none => s
  | some o =>
    match o.answer with
    | .awaiting =>
      (s.modOutgoing k fun o => { o with answer := .unanswered, answerTimer := none }).pushChange
        (.cmdUnanswered k o.activation)
    | .none | .answered | .answeredLate | .unanswered => s.modOutgoing k fun o => { o with answerTimer := none }

/-- ANSWER_TIMER_EXPIRY (R144). -/
def execAnswerTimerExpiry (command : Fin 4) (s : State) : Result :=
  .next (s.running fun s =>
    match (s.cmd command).outgoing with
    | none => s
    | some o => s.onExpiry o.answerTimer (expireAnswer command))

/-- *unexpected commands* adds one (R155). -/
def unexpectedCommand (s : State) : State :=
  s.modStats fun c => { c with unexpectedCommands := bump c.unexpectedCommands }

/-- R143: a CMDACK of the present activation answers an awaited or unanswered activation; every other is
stale. -/
def judgeAnswer (activation : BitVec 8) (conditions : Conditions) (o : Outgoing) : Option Outgoing :=
  if o.activation = activation then
    match o.answer with
    | .awaiting => some { o with answer := .answered, conditions := some conditions, answerTimer := none }
    | .unanswered => some { o with answer := .answeredLate, conditions := some conditions }
    | .none | .answered | .answeredLate => none
  else none

/-- R138, R143: a CMDACK dispatched in RUN. -/
def receiveCmdAck (src : Nat) (body : Octets) (s : State) : State :=
  match commandOf (oct body 0) with
  | none => unexpectedCommand s
  | some k =>
    match (s.cmd k).outgoing with
    | none => unexpectedCommand s
    | some o =>
      if cmdFarStation (s.cmdSetting k) = src then
        match judgeAnswer (oct body 1) (conditionsOf (oct body 2)) o with
        | some o' => s.modOutgoing k fun _ => o'
        | none => s.modStats fun c => { c with staleAnswers := bump c.staleAnswers }
      else unexpectedCommand s

/-! ### The receiving side (section 8.4) -/

/-- R138: a CMDACK to the command's far station, the source of the CMD answered. -/
def sendCmdAck (k : Fin 4) (activation : BitVec 8) (conditions : Conditions) (s : State) : State :=
  originate .cmdAck (cmdFarStation (s.cmdSetting k)) [commandNumber k, activation, conditions.code] allLanes s

/-- R149: the answer cycle is answered, with TAKEN or without. -/
def answerCycle (k : Fin 4) (taken : Bool) (s : State) : State :=
  match (s.cmd k).incoming with
  | none => s
  | some r =>
    match r.cycle with
    | none => s
    | some c =>
      if c.answered then s
      else
        sendCmdAck k c.activation ⟨taken, c.already, false⟩
          (s.modIncoming k fun r => { r with cycle := some { c with answered := true, window := none } })

/-- R149: a new answer cycle; TKk asserted at its start answers it at once. -/
def startCycle (k : Fin 4) (activation : BitVec 8) (already : Bool) (s : State) : State :=
  let window := s.after (cmdTakenWindow (s.cmdSetting k) * Config.ticksPerMs)
  let s1 := s.modIncoming k fun r => { r with cycle := some ⟨activation, already, false, some window⟩ }
  if (s.cmd k).tk then answerCycle k true s1 else s1

/-- R149: an ON that takes the record to REFUSED abandons a cycle still open; an answered cycle stays
(DEDUCED, log entry 11). -/
def abandonOpen (c : Option Cycle) : Option Cycle := c.filter (·.answered)

/-- R147: an activation, decided by BLOCK. -/
def activate (k : Fin 4) (activation : BitVec 8) (s : State) : State :=
  let persistence := some (s.after Config.persistencePeriod)
  if s.block then
    sendCmdAck k activation ⟨false, false, true⟩ (s.modIncoming k fun r =>
      { r with state := .refused, activation := some activation, persistence := persistence
               cycle := abandonOpen r.cycle })
  else
    let s1 := s.modCmd k fun c =>
      { c with co := true, incoming := c.incoming.map fun r =>
          { r with state := .active, activation := some activation, assertTime := some s.now
                   persistence := persistence } }
    (startCycle k activation false s1).pushChange (.cmdReceived k activation)

/-- R147, R148: an accepted CMD(ON). -/
def acceptOn (k : Fin 4) (activation : BitVec 8) (s : State) : State :=
  match (s.cmd k).incoming with
  | none => s
  | some r =>
    let persistence := some (s.after Config.persistencePeriod)
    match r.state with
    | .idle => activate k activation s
    | .active =>
      let s1 := s.modIncoming k fun r => { r with persistence := persistence, activation := some activation }
      if r.activation = some activation then s1 else startCycle k activation true s1
    | .holding =>
      startCycle k activation true (s.modIncoming k fun r =>
        { r with state := .active, hold := none, persistence := persistence, activation := some activation })
    | .refused =>
      if r.activation = some activation then s.modIncoming k fun r => { r with persistence := persistence }
      else activate k activation s

/-- R150: an incoming record enters IDLE; COk is released. -/
def releaseToIdle (k : Fin 4) (s : State) : State :=
  s.modCmd k fun c =>
    { c with co := false, incoming := c.incoming.map fun r =>
        { r with state := .idle, activation := none, assertTime := none, persistence := none, hold := none } }

/-- R150: the release of an ACTIVE record: HOLDING, and IDLE at once when the minimum hold has passed. -/
def beginRelease (k : Fin 4) (s : State) : State :=
  match (s.cmd k).incoming with
  | none => s
  | some r =>
    let start := r.assertTime.getD s.now
    let least := cmdMinimumHold (s.cmdSetting k) * Config.ticksPerMs
    if least ≤ (s.now - start).toNat then releaseToIdle k s
    else s.modIncoming k fun r =>
      { r with state := .holding, persistence := none, hold := some (start + BitVec.ofNat 32 least) }

/-- R150: an OFF, or the expiry of the persistence timer: an ACTIVE record is released, a REFUSED one becomes
IDLE. -/
def endActivation (k : Fin 4) (s : State) : State :=
  match (s.cmd k).incoming with
  | none => s
  | some r =>
    match r.state with
    | .active => beginRelease k s
    | .refused => releaseToIdle k s
    | .idle => s
    | .holding => s

/-- R146: a frame sequence is newer than the record's last accepted one. -/
def newer (last : Option (BitVec 16)) (seq : BitVec 16) : Bool :=
  match last with
  | none => true
  | some l => 1 ≤ (seq - l).toNat && (seq - l).toNat ≤ 32767

/-- R138, R146: a CMD dispatched in RUN. -/
def receiveCmd (src : Nat) (seq : BitVec 16) (body : Octets) (s : State) : State :=
  match commandOf (oct body 0) with
  | none => unexpectedCommand s
  | some k =>
    match (s.cmd k).incoming with
    | none => unexpectedCommand s
    | some r =>
      if cmdFarStation (s.cmdSetting k) = src ∧ newer r.lastSeq seq = true then
        let s1 := s.modIncoming k fun r =>
          { r with lastSeq := some seq, seqTimer := some (s.after Config.sequencePeriod) }
        if (oct body 1).getLsbD 0 then acceptOn k (oct body 2) s1 else endActivation k s1
      else unexpectedCommand s

/-- PERSISTENCE_TIMER_EXPIRY (R150). -/
def execPersistenceTimerExpiry (command : Fin 4) (s : State) : Result :=
  .next (s.running fun s =>
    match (s.cmd command).incoming with
    | none => s
    | some r => s.onExpiry r.persistence fun s =>
        endActivation command (s.modIncoming command fun r => { r with persistence := none }))

/-- HOLD_TIMER_EXPIRY (R150): at the end of the minimum hold a HOLDING record becomes IDLE. -/
def execHoldTimerExpiry (command : Fin 4) (s : State) : Result :=
  .next (s.running fun s =>
    match (s.cmd command).incoming with
    | none => s
    | some r => s.onExpiry r.hold fun s =>
        if r.state == .holding then releaseToIdle command s
        else s.modIncoming command fun r => { r with hold := none })

/-- SEQUENCE_TIMER_EXPIRY (R150): the last accepted sequence becomes absent, in whichever state the record
stands. -/
def execSequenceTimerExpiry (command : Fin 4) (s : State) : Result :=
  .next (s.running fun s =>
    match (s.cmd command).incoming with
    | none => s
    | some r => s.onExpiry r.seqTimer fun s =>
        s.modIncoming command fun r => { r with lastSeq := none, seqTimer := none })

/-- TK_CHANGE (R149): the pin takes a level; its assertion answers an open cycle with TAKEN. -/
def execTkChange (command : Fin 4) (level : Bool) (s : State) : Result :=
  let s1 := s.modCmd command fun c => { c with tk := level }
  .next (if s.rstLow || !level then s1 else answerCycle command true s1)

/-- TAKEN_WINDOW_EXPIRY (R149): an open cycle is answered without TAKEN. -/
def execTakenWindowExpiry (command : Fin 4) (s : State) : Result :=
  .next (s.running fun s =>
    match (s.cmd command).incoming with
    | none => s
    | some r =>
      match r.cycle with
      | none => s
      | some c => s.onExpiry c.window (answerCycle command false))

/-- BLOCK_CHANGE (R147): BLOCK is read at activations alone. -/
def execBlockChange (level : Bool) (s : State) : Result := .next { s with block := level }

end Sys2Proof.Machine
end

