-- ==== Sys2Proof/Machine/Echo.lean ====
section
/-! DEFINITION. Sending and answering echoes, and matching the replies (sections 7.1 to 7.3). -/

namespace Sys2Proof.Machine

/-- R120: one ECHO to a peer on each lane, its t1 left to be stamped at the grant; lane A's is originated first
(DESIGN CHOICE, log entry 10). -/
def echoPeer (r : Peer) (s : State) : State :=
  originate .echo r.station (zeros 4) [.B] (originate .echo r.station (zeros 4) [.A] s)

/-- R120: an echo round, every peer record in order of peer index. -/
def echoRound (s : State) : State := s.peers.foldl (fun s r => echoPeer r s) s

/-- ECHO_ROUND (R120): the cadence runs in RUN alone; the next round falls one echo period later. -/
def execEchoRound (s : State) : Result :=
  .next (s.running fun s =>
    match s.echoTimer with
    | none => s
    | some t =>
      let s1 := s.reach t
      echoRound { s1 with
        echoTimer := some (t + BitVec.ofNat 32 (s1.image.echoPeriod * Config.ticksPerMs)) })

/-- R124: an ECHO addressed to this station is answered on the lane opposite to its arrival lane, with t1 copied
and t2 the arrival time; t3 is left to be stamped. -/
def answerEcho (L : Lane) (src dst : Nat) (body : Octets) (s : State) : State :=
  if s.ctl.number = some dst then
    originate .echoR src (be32 (rd32 body 0) ++ be32 s.now ++ zeros 4) [L.other] s
  else s

/-- R126: the round trip, each difference taken modulo 2^32 on its own. -/
def roundTrip (t1 t2 t3 t4 : Time) : Int := ((t4 - t1).toNat : Int) - ((t3 - t2).toNat : Int)

/-- R125 to R127: an ECHO-R from a station, arrived on lane `L`. -/
def matchEcho (L : Lane) (src : Nat) (body : Octets) (s : State) : State :=
  let stale := s.modStats fun c => { c with staleEchoes := bump c.staleEchoes }
  match s.peerIndex src with
  | none => stale
  | some i =>
    match s.peers[i]? with
    | none => stale
    | some r =>
      if (r.lanes.get L).outstanding = some (rd32 body 0) then
        let rtt := roundTrip (rd32 body 0) (rd32 body 4) (rd32 body 8) s.now
        if 0 ≤ rtt ∧ rtt ≤ Config.roundTripLimit then
          setSamples i L (addSample (r.lanes.get L).samples rtt.toNat)
            (s.modPeerLane i L fun l => { l with outstanding := none, missed := 0 })
        else
          (s.modPeerLane i L fun l => { l with outstanding := none }).modStats
            fun c => { c with invalidEchoes := bump c.invalidEchoes }
      else stale

end Sys2Proof.Machine
end

