-- ==== Sys2Proof/Machine/ClockLoop.lean ====
section
/-! DEFINITION. The clock loop's computation at an interval event (chapter 6). -/

namespace Sys2Proof.Machine

/-- R109: a correction limited to ±100,000 ppb. -/
def clampPpb (x : Int) : Int := max (-Config.ppbLimit) (min Config.ppbLimit x)

/-- R110: the accumulator takes up N × C, and the next octet count follows from the sum. -/
def accumulate (n : Nat) (c : ClockLoop) : ClockLoop :=
  let sum := c.accumulator + n * c.applied
  if Config.nanoOctet ≤ sum then { c with accumulator := sum - Config.nanoOctet, next := n + 1 }
  else if sum ≤ -Config.nanoOctet then { c with accumulator := sum + Config.nanoOctet, next := n - 1 }
  else { c with accumulator := sum, next := n }

/-- R107: the band of a fill error. -/
def errorBand (width : Nat) (e : Int) : Nat := min 15 (e.natAbs / width)

/-- R108: the proportional term, the steer step times the gain divided by 16 and truncated, with the sign of the
error; 0 for an error of 0. -/
def proportional (step gain : Nat) (e : Int) : Int :=
  if e = 0 then 0
  else if 0 < e then ((step * gain / 16 : Nat) : Int)
  else -((step * gain / 16 : Nat) : Int)

/-- R107, R108: the proportional term of a circuit for a measured fill. -/
def steerTerm (im : Image) (r : CircuitRecord) (fill : Nat) : Int :=
  let e : Int := (fill : Int) - (recTargetFill r : Int)
  proportional (im.steerEntry (errorBand (recClass r).band e)) (recGain r) e

/-- R107 to R110: the steering computation on the fill figure just measured. -/
def steer (im : Image) (r : CircuitRecord) (fill : Nat) (c : ClockLoop) : ClockLoop :=
  let p := steerTerm im r fill
  let i := clampPpb (c.integrator + p)
  accumulate (recN r) { c with integrator := i, applied := clampPpb (i + 8 * p) }

/-- R112: the holdover computation. -/
def holdover (r : CircuitRecord) (c : ClockLoop) : ClockLoop :=
  accumulate (recN r) { c with applied := c.held }

/-- R113: H takes the value of I. -/
def ClockLoop.save (c : ClockLoop) : ClockLoop := { c with held := c.integrator }

/-- R114: I takes the value of H. -/
def ClockLoop.restore (c : ClockLoop) : ClockLoop := { c with integrator := c.held }

/-- R114: H, I, C and A at 0 and n at N. -/
def ClockLoop.start (n : Nat) : ClockLoop := ⟨0, 0, 0, 0, n⟩

end Sys2Proof.Machine
end

