-- ==== Sys2Proof/Machine/Circuits.lean ====
section
/-! DEFINITION. The circuit controller (chapter 5): the transitions of the circuit state, lane selection and the
loop requests. -/

namespace Sys2Proof.Machine

/-! ### Transitions (section 5.2) -/

/-- R65: the buffer emptied, the position absent, fill figure and runs 0. -/
def Engine.emptied (_ : Engine) : Engine := Engine.reset

/-- R65, R84: a circuit enters FLUSH or WAIT: the buffer is emptied and the flush count is 0. -/
def Port.enterEmpty (st : CircuitState) (q : Port) : Port :=
  { q with engine := q.engine.emptied, circuit := { q.circuit with state := st, flushCount := 0 } }

/-- R84, R88: the circuit goes to FLUSH, with its entry. -/
def toFlush (p : Fin 8) (s : State) : State :=
  (s.modPort p (Port.enterEmpty .flush)).pushChange (.circuitState p .flush)

/-- R83, R88: the circuit goes to WAIT, with its entry. -/
def toWait (p : Fin 8) (s : State) : State :=
  (s.modPort p (Port.enterEmpty .wait)).pushChange (.circuitState p .wait)

/-- R113: the held correction of circuit `p` takes the value of its integrator. -/
def saveHeld (p : Fin 8) (s : State) : State := s.modPort p fun q => { q with clk := q.clk.save }

/-- R74: the starved run has reached the starvation limit in PLAY: *starvations* adds one, H takes the value of I
and the circuit goes to WAIT. -/
def checkStarvation (p : Fin 8) (s : State) : State :=
  if (s.port p).circuit.state == .play && recStarvation (s.setting p) ≤ (s.port p).engine.starvedRun then
    toWait p (saveHeld p (s.countPort p fun c => { c with starvations := bump c.starvations }))
  else s

/-- R76, R85: the idle run has reached the starvation limit in PREFILL: the circuit goes to WAIT. -/
def checkIdleRun (p : Fin 8) (s : State) : State :=
  if (s.port p).circuit.state == .prefill && recStarvation (s.setting p) ≤ (s.port p).engine.idleRun then
    toWait p s
  else s

/-- R84: the flush count has reached the flush setting in FLUSH: the circuit goes to PREFILL. -/
def checkFlushEnd (p : Fin 8) (s : State) : State :=
  if (s.port p).circuit.state == .flush && recFlush (s.setting p) ≤ (s.port p).circuit.flushCount then
    (s.modPort p fun q => { q with circuit := { q.circuit with state := .prefill, flushCount := 0 } }).pushChange
      (.circuitState p .prefill)
  else s

/-- R87, R88: the circuit enters PLAY, with I taking the value of H. -/
def enterPlay (p : Fin 8) (s : State) : State :=
  (s.modPort p fun q => { q with clk := q.clk.restore, circuit := { q.circuit with state := .play } }).pushChange
    (.circuitState p .play)

/-- R68: an overrun: *slips* adds one, H takes the value of I when the circuit was in PLAY, and the circuit goes
to FLUSH. -/
def slip (p : Fin 8) (s : State) : State :=
  let s1 := s.countPort p fun c => { c with slips := bump c.slips }
  toFlush p (if (s.port p).circuit.state == .play then saveHeld p s1 else s1)

/-! ### Lane selection (section 5.3) -/

/-- R94: the revert timer of circuit `p` after a switch to `lane`: it runs for the revert wait when the circuit now
stands off its configured lane, the wait is 1 s or more and the far peer is present there; else it is stopped. -/
def State.revertTimerFor (s : State) (p : Fin 8) (lane : Lane) : Timer :=
  match (recMode (s.setting p)).configured with
  | none => none
  | some c =>
    if lane = c then none
    else if 1 ≤ recRevertWait (s.setting p) && s.farPresent p c then
      some (s.after (recRevertWait (s.setting p) * Config.ticksPerSecond))
    else none

/-- R93, R94: the current lane switches. -/
def switchLane (p : Fin 8) (lane : Lane) (s : State) : State :=
  let timer := s.revertTimerFor p lane
  let s1 := s.modPort p fun q =>
    { q with counts := { q.counts with laneSwitches := bump q.counts.laneSwitches }
             circuit := { q.circuit with current := some lane, tally := Tally.zero, revert := timer } }
  evaluateDelay p (s1.pushChange (.laneSwitch p lane))

/-- R92: the presence criterion. -/
def checkPresence (p : Fin 8) (s : State) : State :=
  match (s.port p).circuit.current with
  | none => s
  | some L => if !s.farPresent p L && s.farPresent p L.other then switchLane p L.other s else s

/-- R90: the period that began at the previous interval event closes. -/
def Tally.close (limit : Nat) (t : Tally) : Tally :=
  if t.currentMark then Tally.zero
  else ⟨false, false, min limit (t.run + 1), t.otherSeen || t.otherMark⟩

/-- R91: the switch run stands at the switch limit with the other lane seen during the run: the traffic
criterion, in RUN. -/
def checkTraffic (p : Fin 8) (s : State) : State :=
  match (s.port p).circuit.current with
  | none => s
  | some L =>
    if s.ctl.station == .run && recSwitchLimit (s.setting p) ≤ (s.port p).circuit.tally.run &&
        (s.port p).circuit.tally.otherSeen then
      switchLane p L.other s
    else s

/-- R90, R95: in RUN the tally of a pinned circuit closes its period at the interval event. -/
def closeTally (p : Fin 8) (s : State) : State :=
  if s.ctl.station == .run && (s.port p).circuit.current.isSome then
    checkTraffic p (s.modPort p fun q =>
      { q with circuit := { q.circuit with tally := q.circuit.tally.close (recSwitchLimit (s.setting p)) } })
  else s

/-- R94: a change of the far peer's presence on the configured lane starts or stops the revert timer of a
circuit that stands on the other lane. -/
def presenceRevert (p : Fin 8) (L : Lane) (present : Bool) (s : State) : State :=
  let configured := (recMode (s.setting p)).configured
  let wait := recRevertWait (s.setting p)
  if configured = some L ∧ (s.port p).circuit.current = some L.other ∧ 1 ≤ wait then
    s.modPort p fun q => { q with circuit := { q.circuit with
      revert := if present then some (s.after (wait * Config.ticksPerSecond)) else none } }
  else s

/-- R40, R92, R94, R95, R130: the controller of port `p` takes a report that the far peer's presence on a lane has
changed.  In QUIET presence is not tested; in CLASH the controller takes no action. -/
def presenceReport (L : Lane) (present : Bool) (p : Fin 8) (s : State) : State :=
  match s.ctl.station with
  | .run => evaluateDelay p (checkPresence p (presenceRevert p L present s))
  | .quiet => evaluateDelay p s
  | .noAddress => s
  | .load => s
  | .clash => s

/-- R100: at entry to RUN the current lane is the configured lane, the tally is 0, the revert timer is stopped
and the presence criterion is tested. -/
def selectLaneAtRun (p : Fin 8) (s : State) : State :=
  if (s.port p).enabled then
    checkPresence p (s.modPort p fun q => { q with circuit := { q.circuit with
      current := (recMode (s.setting p)).configured, tally := Tally.zero, revert := none } })
  else s

/-! ### Loops (section 5.5) -/

/-- R59, R97, R98: a loop request for an enabled circuit.  The loop already set changes nothing; setting LINE
empties the transmit store; a change takes the circuit to FLUSH. -/
def requestLoop (want : LoopState) (p : Fin 8) (s : State) : State :=
  if (s.port p).circuit.loop == want then s
  else
    toFlush p (s.modPort p fun q =>
      { q with circuit := { q.circuit with loop := want }
               tx := if want == .line then { q.tx with store := [], sentBits := 0 } else q.tx })

/-! ### The events -/

/-- STARVATION (R74): taken where its condition stands; the interval event takes it as its second step (R75; DEDUCED,
log entry 13). -/
def execStarvation (port : Fin 8) (s : State) : Result := .next (s.running (checkStarvation port))

/-- IDLE_RUN_LIMIT (R76): taken where its condition stands; the interval event takes it itself. -/
def execIdleRunLimit (port : Fin 8) (s : State) : Result := .next (s.running (checkIdleRun port))

/-- FLUSH_END (R84): taken where its condition stands; the interval event takes it itself. -/
def execFlushEnd (port : Fin 8) (s : State) : Result := .next (s.running (checkFlushEnd port))

/-- TRAFFIC_SWITCH (R91): taken where its condition stands; the interval event takes it itself. -/
def execTrafficSwitch (port : Fin 8) (s : State) : Result := .next (s.running (checkTraffic port))

/-- REVERT_TIMER_EXPIRY (R94): in RUN the current lane switches back to the configured lane. -/
def execRevertTimerExpiry (port : Fin 8) (s : State) : Result :=
  .next (s.running fun s =>
    if s.ctl.station == .run then
      s.onExpiry (s.port port).circuit.revert fun s =>
        match (recMode (s.setting port)).configured with
        | none => s
        | some c => if (s.port port).circuit.current = some c then s else switchLane port c s
    else s)

end Sys2Proof.Machine
end

