-- ==== Sys2Proof/Machine/Playout.lean ====
section
/-! DEFINITION. The playout engine (chapter 4): the acceptance of a cell by circuit state, the take, the fill
figure and the interval event of a circuit. -/

namespace Sys2Proof.Machine

/-! ### Sorting an arriving cell (section 4.3) -/

/-- R63: the slot of a count. -/
def slotOf (count : BitVec 16) : Fin 16 := Fin.ofNat 16 count.toNat

/-- R63: the held cell of a count, when its slot holds it. -/
def Engine.cellOf (e : Engine) (count : BitVec 16) : Option HeldCell :=
  match e.buffer[slotOf count] with
  | none => none
  | some h => if h.count = count then some h else none

/-- R67: a cell stored in its slot. -/
def Engine.store (e : Engine) (c : HeldCell) : Engine :=
  { e with buffer := e.buffer.set (slotOf c.count) (some c), stored := true }

/-- R66, R67: what becomes of a cell that arrives in PREFILL or PLAY. -/
inductive CellVerdict where
  | anchors
  | stored
  | duplicate
  | late
  | overrun
deriving DecidableEq, Repr

/-- R66, R67: the judgement of a cell of count `c`. -/
def judgeCell (e : Engine) (c : BitVec 16) : CellVerdict :=
  match e.position with
  | none => .anchors
  | some pos =>
    let d := (c - pos.count).toNat
    if d = 0 ∧ 0 < pos.offset then .late
    else if d ≤ 15 then (if (e.cellOf c).isSome then .duplicate else .stored)
    else if d ≤ 32767 then .overrun
    else .late

/-- R66 to R68: a cell sorted into the buffer of a circuit in PREFILL or PLAY. -/
def sortCell (p : Fin 8) (c : HeldCell) (s : State) : State :=
  match judgeCell (s.port p).engine c.count with
  | .anchors =>
    s.modPort p fun q =>
      { q with engine := { q.engine.store c with position := some ⟨c.count, 0⟩ }
               counts := { q.counts with cellsAccepted := bump q.counts.cellsAccepted } }
  | .stored =>
    s.modPort p fun q =>
      { q with engine := q.engine.store c
               counts := { q.counts with cellsAccepted := bump q.counts.cellsAccepted } }
  | .duplicate => s.countPort p fun n => { n with duplicateCells := bump n.duplicateCells }
  | .late => s.countPort p fun n => { n with late := bump n.late }
  | .overrun => slip p s

/-- R62: the acceptance by circuit state. -/
def acceptCell (p : Fin 8) (c : HeldCell) (s : State) : State :=
  match (s.port p).circuit.state with
  | .off => s
  | .wait => toFlush p (s.countPort p fun n => { n with flushedCells := bump n.flushedCells })
  | .flush => s.countPort p fun n => { n with flushedCells := bump n.flushedCells }
  | .prefill => sortCell p c s
  | .play => sortCell p c s

/-! ### The take (R71, R72) -/

/-- R71: the position after one octet. -/
def Position.advance (n : Nat) (pos : Position) : Position :=
  if pos.offset + 1 < n then { pos with offset := pos.offset + 1 } else ⟨pos.count + 1, 0⟩

/-- R71: the engine after the octet at its position has been taken; a cell leaves with its last octet. -/
def Engine.pass (n : Nat) (pos : Position) (e : Engine) : Engine :=
  { e with
    position := some (pos.advance n)
    buffer := if pos.offset + 1 < n then e.buffer
      else if (e.cellOf pos.count).isSome then e.buffer.set (slotOf pos.count) none else e.buffer }

/-- R71, R72: the counters at octet 0 of a count: *played from A* or *played from B* by the cell's arrival lane,
*missing* when no cell of the count is held. -/
def enterCount (pos : Position) (held : Option HeldCell) (n : CircuitCounters) : CircuitCounters :=
  if pos.offset = 0 then
    match held with
    | none => { n with missing := bump n.missing }
    | some h =>
      match h.lane with
      | none => n
      | some .A => { n with playedA := bump n.playedA }
      | some .B => { n with playedB := bump n.playedB }
  else n

/-- R71: the octet at the position: the cell's own, all-ones for a SRC-LOST cell, fill where no cell is held. -/
def octetAt (fill : Byte) (pos : Position) (held : Option HeldCell) : Byte :=
  match held with
  | none => fill
  | some h => if h.srcLost then 0xFF else oct h.payload pos.offset

/-- What a take has made so far: the engine, the counters, the octets, and whether one of them came from a held
cell. -/
structure Take where
  engine : Engine
  counts : CircuitCounters
  octets : Octets
  fromCell : Bool
deriving DecidableEq, Repr

/-- R71: one octet taken. -/
def takeOctet (r : CircuitRecord) (t : Take) : Take :=
  match t.engine.position with
  | none => { t with octets := t.octets ++ [recFillOctet r] }
  | some pos =>
    let held := t.engine.cellOf pos.count
    { engine := t.engine.pass (recN r) pos
      counts := enterCount pos held t.counts
      octets := t.octets ++ [octetAt (recFillOctet r) pos held]
      fromCell := t.fromCell || held.isSome }

/-- R71: `n` octets taken one after another. -/
def takeOctets (r : CircuitRecord) : Nat → Take → Take
  | 0, t => t
  | n + 1, t => takeOctets r n (takeOctet r t)

/-! ### The fill figure (R78) -/

/-- The greatest distance of a held count from the play position, with one added; 0 when no cell is held. -/
def spanHeld (start : BitVec 16) (e : Engine) : Nat :=
  e.buffer.toList.foldl (fun m h =>
    match h with
    | none => m
    | some c => max m (((c.count - start).toNat + 1) % 65536)) 0

/-- R78: the fill figure. -/
def Engine.measure (n : Nat) (e : Engine) : Nat :=
  match e.position with
  | none => 0
  | some pos => spanHeld pos.count e * n - pos.offset

/-! ### The interval event of a circuit (section 4.4) -/

/-- R57, R59: octets passed to the transmit store, which has room for 2N; in line loop they are discarded. -/
def passOctets (r : CircuitRecord) (os : Octets) (q : Port) : Port :=
  if q.circuit.loop == .line then q
  else { q with tx := { q.tx with store := (q.tx.store ++ os).take (2 * recN r) } }

/-- R73: the interval's n octets of fill. -/
def sendFill (p : Fin 8) (s : State) : State :=
  let r := s.setting p
  s.modPort p fun q => passOctets r (List.replicate q.clk.next (recFillOctet r)) q

/-- R78: the fill figure measured. -/
def measureFill (p : Fin 8) (s : State) : State :=
  let n := recN (s.setting p)
  s.modPort p fun q => { q with engine := { q.engine with fill := q.engine.measure n } }

/-- R105: the clock loop's computation, by the circuit state at this step; the period of R76 ends. -/
def computeClock (p : Fin 8) (s : State) : State :=
  let r := s.setting p
  let im := s.image
  s.modPort p fun q =>
    { q with
      clk := if q.circuit.state == .play then steer im r q.engine.fill q.clk else holdover r q.clk
      engine := { q.engine with stored := false } }

/-- R71 to R74: the take of n octets and the starved run. -/
def playTake (p : Fin 8) (s : State) : State :=
  let r := s.setting p
  s.modPort p fun q =>
    let t := takeOctets r q.clk.next ⟨q.engine, q.counts, [], false⟩
    passOctets r t.octets
      { q with engine := { t.engine with starvedRun := if t.fromCell then 0 else q.engine.starvedRun + 1 }
               counts := t.counts }

/-- R75: the interval event of a circuit in PLAY. -/
def playInterval (p : Fin 8) (s : State) : State :=
  computeClock p (measureFill p (checkStarvation p (playTake p s)))

/-- R76: the interval event that leaves a circuit in PREFILL, with the idle run. -/
def prefillInterval (p : Fin 8) (s : State) : State :=
  let s1 := (sendFill p s).modPort p fun q =>
    { q with engine := { q.engine with idleRun := if q.engine.stored then 0 else q.engine.idleRun + 1 } }
  computeClock p (measureFill p (checkIdleRun p s1))

/-- R84: the interval event counts toward the flush period. -/
def countFlush (p : Fin 8) (s : State) : State :=
  checkFlushEnd p (s.modPort p fun q =>
    { q with circuit := { q.circuit with flushCount := q.circuit.flushCount + 1 } })

/-- R70, R75 to R77: what the playout engine, the circuit state and the clock loop do at the interval event. -/
def engineInterval (p : Fin 8) (s : State) : State :=
  match (s.port p).circuit.state with
  | .off => s
  | .wait => computeClock p (measureFill p (sendFill p s))
  | .flush => countFlush p (computeClock p (measureFill p (sendFill p s)))
  | .prefill =>
    if recTargetFill (s.setting p) ≤ (s.port p).engine.measure (recN (s.setting p)) then
      playInterval p (enterPlay p s)
    else prefillInterval p s
  | .play => playInterval p s

/-- R70, R90: the interval event of one circuit; the engine's entries come before the controller's switch
(DEDUCED, log entry 9). -/
def circuitInterval (p : Fin 8) (s : State) : State := closeTally p (engineInterval p s)

/-- The ports whose circuit is not OFF. -/
def State.enabledPorts (s : State) : List (Fin 8) := allPorts.filter fun p => (s.port p).enabled

/-- R70, R171: time comes to the next interval time, 10,000 ticks after the last. -/
def reachInterval (s : State) : State :=
  let s1 := s.elapseTicks (Config.intervalTicks - s.clock.interval)
  { s1 with clock := { s1.clock with interval := s1.clock.interval - Config.intervalTicks } }

/-- INTERVAL_EVENT (R70): the interval events of every circuit that is not OFF. -/
def execIntervalEvent (s : State) : Result :=
  .next (s.running fun s =>
    let s1 := reachInterval s
    s1.inSomeOrder s1.enabledPorts circuitInterval)

end Sys2Proof.Machine
end

