-- ==== Sys2Proof/Machine/Tributary.lean ====
section
/-! DEFINITION. The tributary ports (chapter 3): the receive line, the cell assembler and the transmit line. -/

namespace Sys2Proof.Machine

/-! ### The cell assembler (sections 3.3 and 3.4) -/

/-- R52, R53: a completed cell as a TRIB on both lanes. -/
def sendCell (p : Fin 8) (count : BitVec 16) (payload : Octets) (srcLost : Bool) (s : State) : State :=
  let r := s.setting p
  originate .trib (recFarStation r)
    (tribBody (recFarPort r) p.val (recClass r) srcLost (s.port p).circuit.current count payload) allLanes s

/-- R47 to R55: a cell completes: it takes the next count, the counters count it, and it is handed to the ring,
or under local loop to the port's own playout engine. -/
def completeCell (p : Fin 8) (payload : Octets) (srcLost : Bool) (s : State) : State :=
  let count := (s.port p).asm.nextCount
  let s1 := s.modPort p fun q =>
    { q with
      asm := { q.asm with nextCount := q.asm.nextCount + 1 }
      counts := { q.counts with
        cellsAssembled := bump q.counts.cellsAssembled
        srcLostCells := if srcLost then bump q.counts.srcLostCells else q.counts.srcLostCells } }
  if (s.port p).circuit.loop == .loc then acceptCell p ⟨count, payload, srcLost, none⟩ s1
  else sendCell p count payload srcLost s1

/-- The cell under assembly of port `p` replaced. -/
def setCell (p : Fin 8) (c : Option CellTiming) (s : State) : State :=
  s.modPort p fun q => { q with asm := { q.asm with cell := c } }

/-- R48, R49: a station-timed cell beginning now. -/
def beginStationCell (p : Fin 8) (s : State) : State := setCell p (some (.station (s.after Config.cellTicks))) s

/-- R51: N all-ones octets. -/
def allOnes (n : Nat) : Octets := List.replicate n 0xFF

/-- R48: a loss onset meets the cell under assembly. -/
def assemblerOnset (p : Fin 8) (s : State) : State :=
  match (s.port p).asm.cell with
  | none => s
  | some (.station _) => s
  | some (.line []) => beginStationCell p s
  | some (.line (o :: os)) =>
    let n := recN (s.setting p)
    completeCell p ((o :: os) ++ allOnes (n - (o :: os).length)) true (beginStationCell p s)

/-- R47: an octet joins a line-timed cell, and the Nth completes it. -/
def assemblerOctet (p : Fin 8) (octet : Byte) (s : State) : State :=
  match (s.port p).asm.cell with
  | none => s
  | some (.station _) => s
  | some (.line held) =>
    if recN (s.setting p) ≤ held.length + 1 then
      completeCell p (held ++ [octet]) false (setCell p (some (.line [])) s)
    else setCell p (some (.line (held ++ [octet]))) s

/-- R50: the regain completes the station-timed cell, and the regaining octet begins a line-timed one. -/
def assemblerRegain (p : Fin 8) (octet : Byte) (s : State) : State :=
  match (s.port p).asm.cell with
  | none => s
  | some (.line _) => assemblerOctet p octet s
  | some (.station _) =>
    completeCell p (allOnes (recN (s.setting p))) true (setCell p (some (.line [octet])) s)

/-! ### The receive line (section 3.2) -/

/-- R44, R48, R55: a PRESENT line becomes LOST: the silence timer stops, *line losses* of an enabled port adds
one, and the assembler takes the onset. -/
def loseLine (p : Fin 8) (s : State) : State :=
  match (s.port p).rx.line with
  | .lost => s
  | .present =>
    assemblerOnset p (s.modPort p fun q =>
      { q with
        rx := { q.rx with line := .lost, silence := none }
        counts := if q.enabled then { q.counts with lineLosses := bump q.counts.lineLosses } else q.counts })

/-- R43 to R45: an octet has been received: the silence timer restarts, the line is PRESENT, and the assembler
takes the octet. -/
def receiveOctet (p : Fin 8) (octet : Byte) (s : State) : State :=
  let s1 := s.modPort p fun q =>
    { q with rx := { q.rx with gathered := [], line := .present, silence := some (s.after Config.silencePeriod) } }
  match (s.port p).rx.line with
  | .present => assemblerOctet p octet s1
  | .lost => assemblerRegain p octet s1

/-- R43: eight bits as an octet, the first gathered the most significant. -/
def octetOfBits (bits : List Bool) : Byte := bits.foldl (fun o b => (o <<< 1) ||| boolCode b) 0

/-- R43: a sampled bit is gathered; the eighth makes an octet, which counts from then on, also when LOSk is asserted
at the same edge and taken next (R48 against R43: DESIGN CHOICE, log entry 26). -/
def gatherBit (p : Fin 8) (bit : Bool) (s : State) : State :=
  let bits := (s.port p).rx.gathered ++ [bit]
  if 8 ≤ bits.length then receiveOctet p (octetOfBits bits) s
  else s.modPort p fun q => { q with rx := { q.rx with gathered := bits } }

/-- OCTET_RECEIVED (R43): while LOSk is asserted no bit is sampled, so no octet is received. -/
def execOctetReceived (port : Fin 8) (octet : Byte) (s : State) : Result :=
  .next (s.running fun s => if (s.port port).rx.los then s else receiveOctet port octet s)

/-- BIT_SAMPLED (R43, R59): the bit is repeated by a line loop whatever the line state, and gathered while LOSk
is deasserted.  A bit taken before an assertion of LOSk at its edge is kept when it is the eighth of an octet (DESIGN
CHOICE, log entry 26); any other is discarded with the bits gathered. -/
def execBitSampled (port : Fin 8) (bit : Bool) (s : State) : Result :=
  .next (s.running fun s =>
    let s1 := s.modPort port fun q => { q with tx := { q.tx with repeatBit := bit } }
    if (s.port port).rx.los then s1 else gatherBit port bit s1)

/-- LOS_ASSERTED (R43, R44): gathered bits are discarded and a PRESENT line becomes LOST; an octet completed before
it at the same edge stands (DESIGN CHOICE, log entry 26).  In cold reset the pin takes its level. -/
def execLosAsserted (port : Fin 8) (s : State) : Result :=
  let s1 := s.modPort port fun q => { q with rx := { q.rx with los := true, gathered := [] } }
  .next (if s.rstLow then s1 else loseLine port s1)

/-- LOS_DEASSERTED (R43, R45): gathering begins again with a new octet; the line stays LOST. -/
def execLosDeasserted (port : Fin 8) (s : State) : Result :=
  .next (s.modPort port fun q => { q with rx := { q.rx with los := false, gathered := [] } })

/-- SILENCE_TIMER_EXPIRY (R44). -/
def execSilenceTimerExpiry (port : Fin 8) (s : State) : Result :=
  .next (s.running fun s => s.onExpiry (s.port port).rx.silence (loseLine port))

/-- STATION_CELL_COMPLETION (R49). -/
def execStationCellCompletion (port : Fin 8) (s : State) : Result :=
  .next (s.running fun s =>
    match (s.port port).asm.cell with
    | some (.station t) =>
      let s1 := s.reach t
      completeCell port (allOnes (recN (s1.setting port))) true (beginStationCell port s1)
    | some (.line _) => s
    | none => s)

/-! ### The transmit line (section 3.6) -/

/-- R57: the next bit of the oldest octet of the store, most significant first; a one from an empty store. -/
def Transmitter.drive (t : Transmitter) : Transmitter :=
  match t.store with
  | [] => { t with txd := true }
  | o :: rest =>
    let bit := o.getMsbD t.sentBits
    if 7 ≤ t.sentBits then { t with store := rest, sentBits := 0, txd := bit }
    else { t with sentBits := t.sentBits + 1, txd := bit }

/-- What drives TXCk (section 3.6). -/
inductive TxClock where
  /-- held low, in cold reset -/
  | heldLow
  /-- the nominal rate of a class, corrected by so many ppb -/
  | generated (cls : RateClass) (ppb : Int)
  /-- repeats RXCk -/
  | repeatsReceive
deriving DecidableEq, Repr

/-- R57 to R59: what drives TXCk of port `p`. -/
def State.txClock (s : State) (p : Fin 8) : TxClock :=
  if s.rstLow then .heldLow
  else if (s.port p).enabled then
    if (s.port p).circuit.loop == .line then .repeatsReceive
    else .generated (s.txClass p) (s.port p).clk.applied
  else .generated (s.txClass p) 0

/-- R57, R58, R59: the bit driven at a falling edge of TXCk: the store's for an enabled port, the bit last sampled
in line loop, a one for a disabled port. -/
def driveBit (q : Port) : Port :=
  if q.enabled then
    if q.circuit.loop == .line then { q with tx := { q.tx with txd := q.tx.repeatBit } }
    else { q with tx := q.tx.drive }
  else { q with tx := { q.tx with txd := true } }

/-- R111: time comes to the next falling edge of the port's own transmit clock, and the fraction past it is
kept (the phase at reset is a DESIGN CHOICE, log entry 8). -/
def reachEdge (p : Fin 8) (s : State) : State :=
  let rate := s.txRate p
  let lacking := Config.txBit - s.clock.txPhase[p]
  let s1 := if lacking = 0 then s else s.elapse ((lacking + rate - 1) / rate)
  { s1 with clock := { s1.clock with txPhase := s1.clock.txPhase.set p (s1.clock.txPhase[p] - Config.txBit) } }

/-- TXC_FALLING_EDGE (R57): an edge of the port's transmit clock, or in line loop of the receive clock that it
repeats (R59). -/
def execTxcFallingEdge (port : Fin 8) (s : State) : Result :=
  .next (s.running fun s =>
    let s1 := if s.txRate port = 0 then s else reachEdge port s
    s1.modPort port driveBit)

end Sys2Proof.Machine
end

