-- ==== Sys2Proof/Machine/Station.lean ====
section
/-! DEFINITION. The station controller (sections 10.1 and 10.2): cold reset and its release, entry to RUN, warm
restart, entry to CLASH, and the cadence of the MARKs. -/

namespace Sys2Proof.Machine

/-! ### Cold reset (R19, R171, R172) -/

/-- Every block at its cold reset value; the levels of the input pins, the order of coming events and the waiting
commands are not the part's to change. -/
def coldReset (s : State) : State :=
  { State.reset with
    ports := Vector.ofFn fun p : Fin 8 => { Port.reset with rx := { Receiver.reset with los := (s.port p).rx.los } }
    cmds := Vector.ofFn fun k : Fin 4 => { Command.reset with ci := (s.cmd k).ci, tk := (s.cmd k).tk }
    block := s.block
    tieBreak := s.tieBreak
    pending := s.pending }

/-- COLD_RESET (R19, R172). -/
def execColdReset (s : State) : Result := .next (coldReset s)

/-- R172: a station number of 1..62 is valid. -/
def strapNumber (straps : BitVec 6) : Option Nat :=
  if 1 ≤ straps.toNat ∧ straps.toNat ≤ 62 then some straps.toNat else none

/-- R172: the values at the release of RSTn. -/
def release (straps : BitVec 6) (cfga : Bool) (s : State) : State :=
  let r := coldReset s
  let number := strapNumber straps
  { r with
    rstLow := false
    ctl := { r.ctl with number := number, station := if number.isSome then .load else .noAddress }
    cfg := { r.cfg with cfga := cfga } }

/-- RESET_RELEASE (R172): the rise of RSTn; with RSTn already high there is none. -/
def execResetRelease (straps : BitVec 6) (cfga : Bool) (s : State) : Result :=
  .next (if s.rstLow then release straps cfga s else s)

/-! ### Marks (R31) -/

/-- Section 11.3: the station state code. -/
def StationState.code : StationState → Byte
  | .noAddress => 0
  | .load => 1
  | .quiet => 2
  | .run => 3
  | .clash => 4

/-- R31: a MARK to all stations, with the instance value and the state code of RUN. -/
def originateMark (s : State) : State :=
  originate .mark 63 (be32 s.image.instanceValue ++ [StationState.run.code]) allLanes s

/-- MARK_PERIOD_EXPIRY (R31): the cadence runs in RUN alone, from the last MARK's time (DEDUCED, log entry 21). -/
def execMarkPeriodExpiry (s : State) : Result :=
  .next (s.running fun s =>
    match s.markTimer with
    | none => s
    | some t => originateMark { s.reach t with markTimer := some (t + BitVec.ofNat 32 Config.markPeriod) })

/-! ### Entry to RUN (R175) -/

/-- What the blocks originate and report at entry to RUN, in no fixed order (R173). -/
inductive RunTask where
  /-- the mark unit's first MARK (R31) -/
  | mark
  /-- the delay unit's first echo round (R120) -/
  | echoes
  /-- lane selection of a circuit (R92, R100) -/
  | lane (port : Fin 8)
  /-- a command input that is qualified ASSERTED (R137) -/
  | assertion (command : Fin 4)
deriving DecidableEq, Repr

/-- R46: the assembler of an enabled port starts, by the line state at the entry. -/
def startAssembler (stationCell : Time) (q : Port) : Port :=
  if q.enabled then
    { q with asm := { q.asm with
        running := true
        cell := some (match q.rx.line with
          | .present => .line []
          | .lost => .station stationCell) } }
  else q

/-- One task of the entry to RUN. -/
def runTask (t : RunTask) (s : State) : State :=
  match t with
  | .mark => originateMark s
  | .echoes => echoRound s
  | .lane p => selectLaneAtRun p s
  | .assertion k => takeAssertion k s

/-- The tasks that the entry to RUN finds. -/
def State.runTasks (s : State) : List RunTask :=
  [.mark, .echoes] ++ s.enabledPorts.map .lane ++
    (allCommands.filter fun k => (s.cmd k).qualified && (s.cmd k).outgoing.isSome).map .assertion

/-- R175 and the table after R177: the station enters RUN; return timers and cadences start, assemblers start,
and each block takes its task. -/
def enterRun (s : State) : State :=
  let s1 := { s with
    ctl := { s.ctl with station := .run, quiet := none }
    marks := PerLane.both ⟨.closed, none, some (s.after Config.returnPeriod)⟩
    markTimer := some (s.after Config.markPeriod)
    echoTimer := some (s.after (s.image.echoPeriod * Config.ticksPerMs)) }
  let s2 := s1.mapPorts fun _ q => startAssembler (s.after Config.cellTicks) q
  s2.inSomeOrder s2.runTasks runTask

/-- QUIET_EXPIRY (R175): in QUIET the quiet timer expires and the station enters RUN. -/
def execQuietExpiry (s : State) : Result :=
  .next (s.running fun s =>
    if s.ctl.station == .quiet then s.onExpiry s.ctl.quiet enterRun else s)

/-! ### Entry to QUIET (R174) and warm restart (R165, R176) -/

/-- R174: QUIET with the frame sequence counter at 0 and the quiet timer at 250 ms. -/
def Controller.enterQuiet (expiry : Time) (c : Controller) : Controller :=
  { c with station := .quiet, quiet := some expiry, sequence := 0 }

/-- R56, R57, R81, R101, R103, R117, R133: an enabled port's values at a successful CLOSE and at a warm restart. -/
def Port.startWait (r : CircuitRecord) (q : Port) : Port :=
  { q with
    asm := Assembler.reset
    tx := { q.tx with store := [], sentBits := 0 }
    engine := Engine.reset
    clk := ClockLoop.start (recN r)
    circuit := { Circuit.reset with state := .wait, current := (recMode r).configured }
    counts := CircuitCounters.zero }

/-- R41: the dynamic parts of a peer record cleared. -/
def Peer.cleared (r : Peer) : Peer := { r with lanes := PerLane.both PeerLane.reset }

/-- R153: a command's records after a warm restart; COk is released, the qualifier stands. -/
def Command.restarted (c : Command) : Command :=
  { c with
    co := false
    outgoing := c.outgoing.map fun o => Outgoing.fresh o.activation
    incoming := c.incoming.map fun _ => Incoming.fresh }

/-- R20, R26, R30, R34, R41, R56, R101, R133, R153, R165, R170, R174: a warm restart.  The image, station time,
the transit queues, the frames being sent, the qualifiers and the configuration port are kept. -/
def warmRestart (s : State) : State :=
  let s1 := { s with
    ctl := s.ctl.enterQuiet (s.after Config.quietPeriod)
    lanes := s.lanes.map fun (l : Forwarder) => { l with localQ := [], counts := LaneCounters.zero }
    dup := Vector.replicate 62 none
    stats := StationCounters.zero
    marks := PerLane.both MarkLane.reset
    markTimer := none
    echoTimer := none
    peers := s.peers.map Peer.cleared
    changes := ChangeQueue.empty }
  (s1.mapPorts fun p q => if q.enabled then q.startWait (s.setting p) else q).mapCmds fun _ c => c.restarted

/-! ### Entry to CLASH (R177) -/

/-- R46, R65, R102: a circuit at entry to CLASH: H takes I when it was in PLAY, a circuit that leaves another
state makes its entry, the loop is cleared, the revert timer and the assembler stop (the tally at 0 DEDUCED, log
entry 19). -/
def clashCircuit (p : Fin 8) (s : State) : State :=
  let st := (s.port p).circuit.state
  let s1 := if st == .play then saveHeld p s else s
  let s2 := if st == .wait then s1 else toWait p s1
  s2.modPort p fun q =>
    { q with
      asm := { q.asm with running := false, cell := none }
      circuit := { q.circuit with loop := .none, tally := Tally.zero, revert := none } }

/-- R21, R34, R102, R134, R154, R177: entry to CLASH.  Transit queues, lane counters, duplicate entries, lane
states, peer records, figures and the change queue stand. -/
def enterClash (s : State) : State :=
  let s1 := { s with
    ctl := { s.ctl with station := .clash, quiet := none }
    lanes := s.lanes.map fun (l : Forwarder) => { l with localQ := [] }
    markTimer := none
    echoTimer := none }
  let s2 := s1.mapCmds fun _ c => c.restarted
  s2.inSomeOrder s2.enabledPorts clashCircuit

end Sys2Proof.Machine
end

