-- ==== Sys2Proof/Machine/Peers.lean ====
section
/-! DEFINITION. The duplicate table, the mark unit's returns and the peer table (chapter 2). -/

namespace Sys2Proof.Machine

/-! ### The duplicate table (section 2.2) -/

/-- R26: the place of a station's entry. -/
def dupPlace (station : Nat) : Option (Fin 62) :=
  if h : 1 ≤ station ∧ station ≤ 62 then some ⟨station - 1, by omega⟩ else none

/-- The entry of a station, none when it is invalid. -/
def State.dupEntry (s : State) (station : Nat) : Option DupEntry :=
  match dupPlace station with
  | none => none
  | some i => s.dup[i]

/-- The entry of a station replaced. -/
def State.setDup (s : State) (station : Nat) (e : Option DupEntry) : State :=
  match dupPlace station with
  | none => s
  | some i => { s with dup := s.dup.set i e }

/-- R27, R28: the result of the window. -/
inductive WindowVerdict where
  /-- accepted, with the entry's new front and positions -/
  | accepted (front : BitVec 16) (window : BitVec 64)
  | duplicate
  | stale
deriving DecidableEq, Repr

/-- R27, R28: a copy with sequence `s` judged at an entry. -/
def judgeSequence (e : Option DupEntry) (seq : BitVec 16) : WindowVerdict :=
  match e with
  | none => .accepted seq 1
  | some e =>
    let d := (e.front - seq).toNat
    if d ≤ 63 then
      if e.window.getLsbD d then .duplicate else .accepted e.front (e.window ||| (1 : BitVec 64) <<< d)
    else if d ≤ 32768 then .stale
    else .accepted seq (e.window <<< (65536 - d) ||| 1)

/-- R29: a delivered copy restarts the age of its source's entry when the entry is valid. -/
def restartAge (station : Nat) (s : State) : State :=
  match s.dupEntry station with
  | none => s
  | some e => s.setDup station (some { e with age := s.after Config.agePeriod })

/-- DUPLICATE_ENTRY_EXPIRY (R29). -/
def execDuplicateEntryExpiry (station : BitVec 6) (s : State) : Result :=
  .next (s.running fun s =>
    match s.dupEntry station.toNat with
    | none => s
    | some e => (s.reach e.age).setDup station.toNat none)

/-! ### The mark unit (section 2.3) -/

/-- R5, R32, R35: a well-formed own MARK with a received hop count and an instance value, on lane `L`. -/
def markReturn (L : Lane) (hop : Nat) (value : BitVec 32) (s : State) : State :=
  if value = s.image.instanceValue then
    if s.ctl.station == .run then
      let size := 64 - hop
      let s1 := s.modMark L fun _ => ⟨.closed, some size, some (s.after Config.returnPeriod)⟩
      if (s.mark L).state == .opened then s1.pushChange (.laneClosed L size) else s1
    else s
  else enterClash (s.pushChange (.clash L value))

/-- R33: the lane becomes OPEN. -/
def openLane (L : Lane) (s : State) : State :=
  (s.modMark L fun _ => ⟨.opened, none, none⟩).pushChange (.laneOpen L)

/-- RETURN_TIMER_EXPIRY (R33). -/
def execReturnTimerExpiry (lane : Lane) (s : State) : Result :=
  .next (s.running fun s => s.onExpiry (s.mark lane).returnTimer (openLane lane))

/-! ### The peer table (section 2.4) -/

/-- R40: a change of presence is reported to the controllers of the peer's circuit role. -/
def reportPresence (r : Peer) (L : Lane) (present : Bool) (s : State) : State :=
  s.inSomeOrder r.rolePorts (presenceReport L present)

/-- R38: a MARK that states RUN, from the station of peer record `i`, on lane `L`; the peer's entry comes before those
of the report (DEDUCED, log entry 20). -/
def peerMark (i : Nat) (L : Lane) (hop : Nat) (s : State) : State :=
  match s.peers[i]? with
  | none => s
  | some r =>
    let s1 := s.modPeerLane i L fun l =>
      { l with present := true, hop := some (64 - hop), presenceTimer := some (s.after Config.presencePeriod) }
    if (r.lanes.get L).present then s1
    else
      let s2 := if (r.lanes.get L.other).present then s1 else s1.pushChange (.peerPresent i L)
      reportPresence r L true s2

/-- R39: the presence of peer `i` on lane `L` has aged out (the order of entries DEDUCED, log entry 20). -/
def loseLane (i : Nat) (L : Lane) (s : State) : State :=
  match s.peers[i]? with
  | none => s
  | some r =>
    let s1 := s.modPeerLane i L fun l => { l with present := false, hop := none, presenceTimer := none }
    let s2 := if (r.lanes.get L.other).present then s1 else s1.pushChange (.peerAbsent i)
    if (r.lanes.get L).present then reportPresence r L false s2 else s2

/-- PRESENCE_TIMER_EXPIRY (R39). -/
def execPresenceTimerExpiry (peer : Fin 12) (lane : Lane) (s : State) : Result :=
  .next (s.running fun s =>
    match s.peers[peer.val]? with
    | none => s
    | some r => s.onExpiry (r.lanes.get lane).presenceTimer (loseLane peer.val lane))

end Sys2Proof.Machine
end

