-- ==== Sys2Proof/Machine/Queries.lean ====
section
/-! DEFINITION. The query responder (chapter 9) with the layouts of its replies (section 11.4). -/

namespace Sys2Proof.Machine

/-! ### Replies (R156, R157) -/

/-- R156: one QRY-R to the asker on both lanes, with the kind code, index and tag as received. -/
def reply (code : Byte) (q : QueryHead) (status : Byte) (record : Octets) (s : State) : State :=
  originate .qryR q.src.toNat ([code, q.index] ++ be16 q.tag ++ [status, 0] ++ record) allLanes s

/-- An ACCEPTED reply. -/
def accept (code : Byte) (q : QueryHead) (record : Octets) (s : State) : State := reply code q 0 record s

/-- A REFUSED reply, its record empty. -/
def refuse (code : Byte) (q : QueryHead) (s : State) : State := reply code q 1 [] s

/-- R25, R156: a QRY is answered in RUN when its destination is this station's number; one addressed to 63 is
discarded unanswered (DEDUCED, log entry 14). -/
def State.queried (s : State) (q : QueryHead) (f : State → State) : State :=
  if s.ctl.station == .run && s.ctl.number == some q.dst.toNat then f s else s

/-- R157: the port that an index admitted by the loop and circuit queries names. -/
def indexPort (index : Byte) : Option (Fin 8) :=
  if h : index.toNat < 8 then some ⟨index.toNat, h⟩ else none

/-- R157: the command 1..4 that an index names. -/
def indexCommand (index : Byte) : Option (Fin 4) :=
  if h : 1 ≤ index.toNat ∧ index.toNat ≤ 4 then some ⟨index.toNat - 1, by omega⟩ else none

/-! ### Codes (section 11.4) -/

def LaneState.code : LaneState → Byte
  | .closed => 0
  | .opened => 1

def CircuitState.code : CircuitState → Byte
  | .off => 0
  | .wait => 1
  | .flush => 2
  | .prefill => 3
  | .play => 4

def LoopState.code : LoopState → Byte
  | .none => 0
  | .loc => 1
  | .line => 2

def LineState.code : LineState → Byte
  | .present => 0
  | .lost => 1

def Activity.code : Activity → Byte
  | .idle => 0
  | .on => 1
  | .releasing => 2

def AnswerState.code : AnswerState → Byte
  | .none => 0
  | .awaiting => 1
  | .answered => 2
  | .answeredLate => 3
  | .unanswered => 4

def IncomingState.code : IncomingState → Byte
  | .idle => 0
  | .active => 1
  | .holding => 2
  | .refused => 3

/-- R183: an optional number whose 0 means absent. -/
def optOctet (n : Option Nat) : Byte := be8 (n.getD 0)

/-- R183: an optional four-octet number, its octets zero while it is absent. -/
def optWord (n : Option Nat) : Octets := be32 (BitVec.ofNat 32 (n.getD 0))

/-- R183: an optional station time. -/
def optTime (t : Option Time) : Octets := be32 (t.getD 0)

/-! ### Records -/

/-- R18: the ten lane counters in their order. -/
def LaneCounters.octets (c : LaneCounters) : Octets :=
  be32 c.framesReceived ++ be32 c.checkFailures ++ be32 c.malformed ++ be32 c.stripped ++
    be32 c.framesDelivered ++ be32 c.hopExpired ++ be32 c.framesForwarded ++ be32 c.transitDrops ++
    be32 c.localDrops ++ be32 c.framesSent

/-- Section 11.4: a lane part of READ-STATION. -/
def stationLanePart (m : MarkLane) (c : LaneCounters) : Octets :=
  [m.state.code, optOctet m.ringSize] ++ c.octets

/-- The eight station counters in their order. -/
def StationCounters.octets (c : StationCounters) : Octets :=
  be32 c.duplicateDiscards ++ be32 c.staleDiscards ++ be32 c.unexpectedCircuit ++ be32 c.classMismatch ++
    be32 c.staleEchoes ++ be32 c.invalidEchoes ++ be32 c.unexpectedCommands ++ be32 c.staleAnswers

/-- R159, section 11.4: the READ-STATION record. -/
def stationRecord (s : State) : Octets :=
  [be8 (s.ctl.number.getD 0), s.ctl.station.code] ++ be32 s.now ++ [be8 s.peers.length, 0] ++
    stationLanePart s.marks.a s.lanes.a.counts ++ stationLanePart s.marks.b s.lanes.b.counts ++
    s.stats.octets ++ [be8 s.changes.entries.length, boolCode s.changes.overflow]

/-- The fourteen circuit counters in their order. -/
def CircuitCounters.octets (c : CircuitCounters) : Octets :=
  be32 c.cellsAssembled ++ be32 c.srcLostCells ++ be32 c.lineLosses ++ be32 c.cellsAccepted ++
    be32 c.duplicateCells ++ be32 c.late ++ be32 c.slips ++ be32 c.missing ++ be32 c.starvations ++
    be32 c.flushedCells ++ be32 c.playedA ++ be32 c.playedB ++ be32 c.laneSwitches ++ be32 c.otherLaneCells

/-- R160: the image part of READ-CIRCUIT; the station number in the low six bits (R183, DEDUCED, log entry 12). -/
def circuitImagePart (r : CircuitRecord) : Octets :=
  [(recClass r).code, (recMode r).code, be8 (recFarStation r % 64), be8 (recFarPort r), be8 (recTarget r), 0] ++
    be16 (BitVec.ofNat 16 (recBudget r))

/-- R160, section 11.4: the READ-CIRCUIT record; a disabled port sends its image fields and line state, every other
field zero. -/
def circuitRecordOf (r : CircuitRecord) (q : Port) : Octets :=
  if q.enabled then
    let c := q.circuit
    circuitImagePart r ++
      [c.state.code, be8 c.flushCount, laneCode c.current, be8 c.tally.run,
        flagBit 0 c.asymmetric ||| flagBit 1 c.overBudget ||| flagBit 2 c.revert.isSome |||
          flagBit 3 q.engine.position.isSome ||| flagBit 4 c.delay.isSome,
        c.loop.code] ++ optTime c.revert ++ [q.rx.line.code, 0] ++ be16 (BitVec.ofNat 16 q.engine.fill) ++
      be16 ((q.engine.position.map (·.count)).getD 0) ++
      be16 (BitVec.ofNat 16 ((q.engine.position.map (·.offset)).getD 0)) ++
      beInt32 q.clk.applied ++ beInt32 q.clk.held ++ optWord c.delay ++ q.counts.octets
  else circuitImagePart r ++ zeros 10 ++ [q.rx.line.code, 0] ++ zeros 74

/-- Section 11.4: a lane part of READ-PEER. -/
def PeerLane.octets (l : PeerLane) : Octets :=
  [flagBit 0 l.present ||| flagBit 2 l.outstanding.isSome ||| flagBit 3 l.figure.isSome, optOctet l.hop,
    be8 l.missed, be8 l.samples.length] ++ optTime l.outstanding ++ optWord l.figure ++
    padTo 32 ((l.samples.map fun x => be32 (BitVec.ofNat 32 x)).flatten)

/-- R161, section 11.4: the READ-PEER record. -/
def Peer.octets (r : Peer) : Octets :=
  [be8 r.station, r.circuits, r.commands.setWidth 8, 0] ++ r.lanes.a.octets ++ r.lanes.b.octets

/-- Section 11.4: octets 4 to 9 of READ-COMMAND. -/
def outgoingOctets (o : Option Outgoing) : Octets :=
  match o with
  | none => zeros 6
  | some o =>
    [o.activity.code, o.activation, o.answer.code,
      (match o.conditions with
        | none => 0
        | some c => c.code ||| flagBit 7 true), be8 o.offLeft, 0]

/-- Section 11.4: octets 10 to 21 of READ-COMMAND. -/
def incomingOctets (r : Option Incoming) : Octets :=
  match r with
  | none => zeros 12
  | some r =>
    [r.state.code, flagBit 0 r.lastSeq.isSome ||| flagBit 1 r.activation.isSome ||| flagBit 2 r.assertTime.isSome |||
        flagBit 3 r.cycle.isSome] ++ be16 (r.lastSeq.getD 0) ++ [r.activation.getD 0] ++
      (match r.cycle with
        | none => [0, 0]
        | some c => [c.activation, flagBit 0 c.already ||| flagBit 1 c.answered]) ++
      [0] ++ optTime r.assertTime

/-- R161, section 11.4: the READ-COMMAND record. -/
def commandRecordOf (r : CommandRecord) (c : Command) : Octets :=
  [(cmdDirection r).code,
    (match cmdDirection r with
      | .disabled => 0
      | .send | .receive | .both => be8 (cmdFarStation r % 64)),
    boolCode (c.qualified && c.outgoing.isSome),
    flagBit 0 c.outgoing.isSome ||| flagBit 1 c.incoming.isSome] ++
    outgoingOctets c.outgoing ++ incomingOctets c.incoming

/-- Section 11.4: kind code, subject and value of a change entry. -/
def Change.octets : Change → Octets
  | .circuitState p st => [1, be8 p.val, 0, 0, 0, st.code]
  | .laneSwitch p L => [2, be8 p.val, 0, 0, 0, laneCode (some L)]
  | .asymmetry p b => [3, be8 p.val, 0, 0, 0, boolCode b]
  | .budget p b => [4, be8 p.val, 0, 0, 0, boolCode b]
  | .laneOpen L => [5, laneCode (some L), 0, 0, 0, 0]
  | .laneClosed L n => [6, laneCode (some L), 0, 0, 0, be8 n]
  | .peerPresent i L => [7, be8 i, 0, 0, 0, laneCode (some L)]
  | .peerAbsent i => [8, be8 i, 0, 0, 0, 0]
  | .cmdSent k a => [9, commandNumber k, 0, 0, 0, a]
  | .cmdUnanswered k a => [10, commandNumber k, 0, 0, 0, a]
  | .cmdReceived k a => [11, commandNumber k, 0, 0, 0, a]
  | .clash L v => [12, laneCode (some L)] ++ be32 v

/-- Section 11.4: a change entry. -/
def ChangeEntry.octets (e : ChangeEntry) : Octets := be32 e.time ++ e.what.octets

/-- R168: the DRAIN record of the entries taken and the flag. -/
def drainRecord (taken : List ChangeEntry) (overflow : Bool) : Octets :=
  [be8 taken.length, boolCode overflow] ++ (taken.map ChangeEntry.octets).flatten

/-! ### The read queries (section 9.2) -/

def answerReadStation (q : QueryHead) (s : State) : State := accept 1 q (stationRecord s) s

def answerReadCircuit (q : QueryHead) (s : State) : State :=
  match indexPort q.index with
  | none => refuse 2 q s
  | some p => accept 2 q (circuitRecordOf (s.setting p) (s.port p)) s

def answerReadPeer (q : QueryHead) (s : State) : State :=
  match s.peers[q.index.toNat]? with
  | none => refuse 3 q s
  | some r => accept 3 q r.octets s

def answerReadCommand (q : QueryHead) (s : State) : State :=
  match indexCommand q.index with
  | none => refuse 4 q s
  | some k => accept 4 q (commandRecordOf (s.cmdSetting k) (s.cmd k)) s

/-- R168: the entries that a DRAIN takes leave the queue, the flag is cleared, and ATTN follows (R169). -/
def ChangeQueue.drained (c : ChangeQueue) : ChangeQueue :=
  let rest := c.entries.drop Config.drainLimit
  { entries := rest, overflow := false, attn := !rest.isEmpty }

def answerDrain (q : QueryHead) (s : State) : State :=
  let taken := s.changes.entries.take Config.drainLimit
  accept 5 q (drainRecord taken s.changes.overflow) { s with changes := s.changes.drained }

/-! ### The acting queries (section 9.3) -/

/-- R157, R162: a loop request is refused for an index outside 0..7 and for a circuit that is OFF; the reply
shows the loop after the request. -/
def answerLoop (code : Byte) (want : LoopState) (q : QueryHead) (s : State) : State :=
  match indexPort q.index with
  | none => refuse code q s
  | some p =>
    if (s.port p).enabled then
      let s1 := requestLoop want p s
      accept code q [(s1.port p).circuit.loop.code] s1
    else refuse code q s

/-- R164: every counter of the part at 0. -/
def clearCounters (s : State) : State :=
  { s with lanes := s.lanes.map fun (l : Forwarder) => { l with counts := LaneCounters.zero }, stats := StationCounters.zero }.mapPorts
    fun _ q => { q with counts := CircuitCounters.zero }

def answerClearCounts (q : QueryHead) (s : State) : State := accept 9 q [] (clearCounters s)

/-- R156: a QRY dispatched to the responder, by its kind code. -/
def respond (code : Byte) (q : QueryHead) (s : State) : State :=
  s.queried q fun s =>
    match code.toNat with
    | 1 => answerReadStation q s
    | 2 => answerReadCircuit q s
    | 3 => answerReadPeer q s
    | 4 => answerReadCommand q s
    | 5 => answerDrain q s
    | 6 => answerLoop 6 .line q s
    | 7 => answerLoop 7 .loc q s
    | 8 => answerLoop 8 .none q s
    | 9 => answerClearCounts q s
    | 10 => warmRestart s
    | _ => refuse code q s

/-! ### The events -/

/-- READ_STATION (R159). -/
def execReadStation (query : QueryHead) (s : State) : Result :=
  .next (s.running fun s => s.queried query (answerReadStation query))

/-- READ_CIRCUIT (R160). -/
def execReadCircuit (query : QueryHead) (s : State) : Result :=
  .next (s.running fun s => s.queried query (answerReadCircuit query))

/-- READ_PEER (R161). -/
def execReadPeer (query : QueryHead) (s : State) : Result :=
  .next (s.running fun s => s.queried query (answerReadPeer query))

/-- READ_COMMAND (R161). -/
def execReadCommand (query : QueryHead) (s : State) : Result :=
  .next (s.running fun s => s.queried query (answerReadCommand query))

/-- DRAIN (R168). -/
def execDrain (query : QueryHead) (s : State) : Result :=
  .next (s.running fun s => s.queried query (answerDrain query))

/-- SET_LOOP_LINE (R97). -/
def execSetLoopLine (query : QueryHead) (s : State) : Result :=
  .next (s.running fun s => s.queried query (answerLoop 6 .line query))

/-- SET_LOOP_LOCAL (R97). -/
def execSetLoopLocal (query : QueryHead) (s : State) : Result :=
  .next (s.running fun s => s.queried query (answerLoop 7 .loc query))

/-- CLEAR_LOOP (R98). -/
def execClearLoop (query : QueryHead) (s : State) : Result :=
  .next (s.running fun s => s.queried query (answerLoop 8 .none query))

/-- CLEAR_COUNTS (R164). -/
def execClearCounts (query : QueryHead) (s : State) : Result :=
  .next (s.running fun s => s.queried query (answerClearCounts query))

/-- RESTART (R165): acted on and not answered. -/
def execRestart (query : QueryHead) (s : State) : Result :=
  .next (s.running fun s => s.queried query warmRestart)

/-- UNKNOWN_QUERY_KIND (R156): the responder judges the code; one that names none of the ten kinds is
refused. -/
def execUnknownQueryKind (code : Byte) (query : QueryHead) (s : State) : Result :=
  .next (s.running (respond code query))

end Sys2Proof.Machine
end

