-- ==== Sys2Proof/Machine/Arrival.lean ====
section
/-! DEFINITION. A frame's arrival (sections 1.1 and 1.2), the delivery filter (section 2.1), the dispatch by kind
(R25) and the acceptance of a far-end cell (section 4.1). -/

namespace Sys2Proof.Machine

/-! ### Far-end cells (R60, R61, R90, R96, R99) -/

/-- R90, R95: a far-end cell on the current lane marks the switch tally. -/
def markCurrentLane (p : Fin 8) (L : Lane) (s : State) : State :=
  if (s.port p).circuit.current = some L then
    s.modPort p fun q =>
      { q with circuit := { q.circuit with tally := { q.circuit.tally with currentMark := true } } }
  else s

/-- R61, R99: a cell that has passed the checks is reported to the controller, and let through unless the circuit
is in local loop. -/
def farEndCell (p : Fin 8) (L : Lane) (body : Octets) (s : State) : State :=
  let s1 := markCurrentLane p L (updateAsymmetric p (tribSenderLane body) s)
  if (s.port p).circuit.loop == .loc then s1
  else acceptCell p ⟨tribCount body, tribPayload (recN (s.setting p)) body, tribSrcLost body, some L⟩ s1

/-- R60, R61: a TRIB dispatched to the engine of its destination port. -/
def receiveTrib (L : Lane) (src : Nat) (body : Octets) (s : State) : State :=
  let p := tribDestPort body
  let r := s.setting p
  if !(s.port p).enabled || src != recFarStation r || tribSourcePort body != recFarPort r then
    s.modStats fun c => { c with unexpectedCircuit := bump c.unexpectedCircuit }
  else if tribClass body != some (recClass r) then
    s.modStats fun c => { c with classMismatch := bump c.classMismatch }
  else farEndCell p L body s

/-! ### Dispatch (R25) -/

/-- R25: an accepted copy is dispatched by its kind; in QUIET every one is discarded. -/
def dispatch (L : Lane) (f : Octets) (s : State) : State :=
  if s.ctl.station == .run then
    let body := frameBody f
    match kindOf (oct f 0) with
    | some .trib => receiveTrib L (frameSource f) body s
    | some .echo => answerEcho L (frameSource f) (frameDest f) body s
    | some .echoR => matchEcho L (frameSource f) body s
    | some .cmd => receiveCmd (frameSource f) (frameSeq f) body s
    | some .cmdAck => receiveCmdAck (frameSource f) body s
    | some .qry =>
      respond (oct body 0)
        ⟨BitVec.ofNat 6 (frameSource f), BitVec.ofNat 6 (frameDest f), oct body 1, rd16 body 2⟩ s
    | some .qryR => s
    | some .mark => s
    | none => s
  else s

/-! ### The delivery filter (section 2.1) -/

/-- R23: in RUN, a TRIB of a pinned circuit's far station and far port that arrives on the lane other than the
current lane is dropped by the lane filter. -/
def laneFiltered (L : Lane) (f : Octets) (s : State) : Bool :=
  let p := tribDestPort (frameBody f)
  let r := s.setting p
  s.ctl.station == .run && oct f 0 == FrameKind.trib.code && (s.port p).enabled &&
    frameSource f == recFarStation r && tribSourcePort (frameBody f) == recFarPort r &&
    (match (s.port p).circuit.current with
      | none => false
      | some c => c != L)

/-- R23, R90, R103: a cell seen on the other lane. -/
def otherLaneCell (p : Fin 8) (s : State) : State :=
  s.modPort p fun q =>
    { q with
      counts := { q.counts with otherLaneCells := bump q.counts.otherLaneCells }
      circuit := { q.circuit with tally := { q.circuit.tally with otherMark := true } } }

/-- R24, R27, R28, R30: a copy meets the duplicate window of its source, and an accepted one is dispatched. -/
def passWindow (L : Lane) (f : Octets) (s : State) : State :=
  match judgeSequence (s.dupEntry (frameSource f)) (frameSeq f) with
  | .duplicate => s.modStats fun c => { c with duplicateDiscards := bump c.duplicateDiscards }
  | .stale => s.modStats fun c => { c with staleDiscards := bump c.staleDiscards }
  | .accepted front window =>
    dispatch L f (s.setDup (frameSource f) (some ⟨front, window, s.after Config.agePeriod⟩))

/-- R22, R38: a delivered MARK reaches the peer record of its source when its body states RUN. -/
def receiveMark (L : Lane) (f : Octets) (s : State) : State :=
  if oct (frameBody f) 4 == StationState.run.code then
    match s.peerIndex (frameSource f) with
    | none => s
    | some i => peerMark i L (frameHop f) s
  else s

/-- R22 to R24, R29: a delivered copy restarts the age of its source's entry; a MARK goes to the peer table, a
filtered TRIB is dropped, and every other copy meets the window. -/
def deliveryFilter (L : Lane) (f : Octets) (s : State) : State :=
  let s1 := restartAge (frameSource f) s
  if oct f 0 == FrameKind.mark.code then receiveMark L f s1
  else if laneFiltered L f s1 then otherLaneCell (tribDestPort (frameBody f)) s1
  else passWindow L f s1

/-! ### The decisions at arrival (section 1.2) -/

/-- R6: one copy is handed to the delivery filter. -/
def deliver (L : Lane) (f : Octets) (s : State) : State :=
  deliveryFilter L f (s.countLane L fun c => { c with framesDelivered := bump c.framesDelivered })

/-- R8: the forwarded copy joins the lane's transit queue. -/
def forwardFrame (L : Lane) (f : Octets) (s : State) : State := joinTransit L (forwardedCopy f) s

/-- R7: a frame dropped with hop count 0. -/
def expireHop (L : Lane) (s : State) : State := s.countLane L fun c => { c with hopExpired := bump c.hopExpired }

/-- R5: a stripped frame; a well-formed MARK in QUIET or RUN is handed to the mark unit. -/
def stripFrame (L : Lane) (f : Octets) (s : State) : State :=
  let s1 := s.countLane L fun c => { c with stripped := bump c.stripped }
  if oct f 0 == FrameKind.mark.code && !malformed f && (s.ctl.station == .quiet || s.ctl.station == .run) then
    markReturn L (frameHop f) (rd32 (frameBody f) 0) s1
  else s1

/-- R6: the frame is delivered here. -/
def delivers (number : Nat) (f : Octets) (s : State) : Bool :=
  (s.ctl.station == .quiet || s.ctl.station == .run) && !malformed f &&
    (frameDest f == number || frameDest f == 63)

/-- R7: the frame is forwarded by a station with a number. -/
def forwards (number : Nat) (f : Octets) : Bool := frameDest f != number && 1 ≤ frameHop f

/-- R6, R7: a frame that is not stripped, in a station with a number.  The two decisions are separate, and their
two frames may join the lane's queues in either order (R15). -/
def passFrame (L : Lane) (number : Nat) (f : Octets) (s : State) : State :=
  if delivers number f s then
    if forwards number f then s.inEitherOrder (forwardFrame L f) (deliver L f) else deliver L f s
  else if forwards number f then forwardFrame L f s
  else if frameHop f = 0 then expireHop L s
  else s

/-- R4, R9: the decisions for a frame that has passed its check. -/
def judgeFrame (L : Lane) (f : Octets) (s : State) : State :=
  match s.ctl.number with
  | none => if 1 ≤ frameHop f then forwardFrame L f s else expireHop L s
  | some n => if frameSource f = n then stripFrame L f s else passFrame L n f s

/-- R1 to R3: a frame arrives: it is counted, checked and judged. -/
def arrive (L : Lane) (f : Octets) (s : State) : State :=
  let s1 := s.countLane L fun c => { c with framesReceived := bump c.framesReceived }
  if checkPasses f then
    judgeFrame L f (if malformed f then s1.countLane L fun c => { c with malformed := bump c.malformed } else s1)
  else s1.countLane L fun c => { c with checkFailures := bump c.checkFailures }

/-- FRAME_ARRIVAL (R1). -/
def execFrameArrival (lane : Lane) (octets : Octets) (s : State) : Result :=
  .next (s.running (arrive lane octets))

end Sys2Proof.Machine
end

