-- ==== Sys2Proof/Machine/Configuration.lean ====
section
/-! DEFINITION. The configuration port and the closing of the image (sections 10.3 and 11.5). -/

namespace Sys2Proof.Machine

/-! ### Clamping (R181) -/

/-- R181: a one-octet field takes the nearer limit of its range. -/
def clampOctet (low high : Nat) (b : Byte) : Byte := be8 (max low (min high b.toNat))

/-- R181: a code field whose value names none takes the first value: class in bits 3..2 and lane mode in bits
1..0 of octet 0. -/
def clampCodes (b : Byte) : Byte :=
  let b1 := if b.toNat / 4 % 4 = 3 then b &&& 0xF3 else b
  if b1.toNat % 4 = 3 then b1 &&& 0xFC else b1

/-- R181: a circuit record. -/
def clampCircuit (r : CircuitRecord) : CircuitRecord :=
  let budget := be16 (BitVec.ofNat 16 (min 500 (recBudget r)))
  #v[clampCodes r[0], r[1], clampOctet 0 7 r[2], clampOctet 2 12 r[3], clampOctet 1 250 r[4],
    clampOctet 1 250 r[5], clampOctet 1 250 r[6], clampOctet 0 60 r[7], clampOctet 1 16 r[8],
    (if r[9] == 1 then 1 else 0), r[10], oct budget 0, oct budget 1]

/-- R181: a command record. -/
def clampCommand (r : CommandRecord) : CommandRecord :=
  #v[(if r[0].toNat ≤ 3 then r[0] else 0), r[1], clampOctet 0 15 r[2], clampOctet 5 255 r[3],
    clampOctet 1 100 r[4], clampOctet 0 250 r[5]]

/-- R181: the station record. -/
def clampStation (im : Image) : Vector Byte 6 :=
  let period := be16 (BitVec.ofNat 16 (max 10 (min 1000 im.echoPeriod)))
  #v[im.station[0], im.station[1], im.station[2], im.station[3], oct period 0, oct period 1]

/-- R115: every entry lower than the one before it takes the value of the one before it. -/
def raiseEntries : Nat → List Nat → List Nat
  | _, [] => []
  | least, x :: xs => max least x :: raiseEntries (max least x) xs

/-- R115: the entries of the steer table put in order: limited to 4095, then raised. -/
def orderedSteer (im : Image) : List Nat :=
  raiseEntries 0 ((List.range 16).map fun j => min 4095 (im.steerEntry j))

/-- R115: the steer table put in order. -/
def clampSteer (im : Image) : Vector Byte 32 :=
  let octets := ((orderedSteer im).map fun n => be16 (BitVec.ofNat 16 n)).flatten
  Vector.ofFn fun i : Fin 32 => oct octets i.val

/-- R181: the image as a successful CLOSE leaves it. -/
def clampImage (im : Image) : Image where
  station := clampStation im
  circuits := Vector.ofFn fun p : Fin 8 => clampCircuit im.circuits[p]
  commands := Vector.ofFn fun k : Fin 4 => clampCommand im.commands[k]
  steer := clampSteer im

/-! ### Faults (R180) -/

/-- The ports whose circuit record is enabled. -/
def Image.enabledPorts (im : Image) : List (Fin 8) := allPorts.filter fun p => recEnabled im.circuits[p]

/-- The commands whose direction is not disabled. -/
def Image.enabledCommands (im : Image) : List (Fin 4) :=
  allCommands.filter fun k => cmdDirection im.commands[k] != .disabled

/-- R180, fault 2: a far station of 0, of 63 or more, or equal to this station's number. -/
def badFarStation (number : Option Nat) (far : Nat) : Bool := far == 0 || 63 ≤ far || number == some far

/-- R180: fault 2 is found. -/
def Image.namesBadStation (number : Option Nat) (im : Image) : Bool :=
  (im.enabledPorts.any fun p => badFarStation number (recFarStation im.circuits[p])) ||
    im.enabledCommands.any fun k => badFarStation number (cmdFarStation im.commands[k])

/-- R180, fault 3: two enabled circuits name the same far station and the same far port. -/
def Image.sharesFarPort (im : Image) : Bool :=
  im.enabledPorts.any fun p => im.enabledPorts.any fun q =>
    p != q && recFarStation im.circuits[p] == recFarStation im.circuits[q] &&
      recFarPort im.circuits[p] == recFarPort im.circuits[q]

/-- R180: the lowest-numbered fault of the image with its fields as R181 would clamp them, 0 for none (DEDUCED, log
entry 17). -/
def closeFault (c : Controller) (im : Image) : Nat :=
  let cl := clampImage im
  if c.station == .noAddress then 1
  else if cl.namesBadStation c.number then 2
  else if cl.sharesFarPort then 3
  else if cl.instanceValue = 0 then 4
  else 0

/-! ### The peer table (R36) -/

/-- R36: a station gains a role, in its record or in a new one at the end. -/
def addRole (station : Nat) (circuits : BitVec 8) (commands : BitVec 4) : List Peer → List Peer
  | [] => [⟨station, circuits, commands, PerLane.both PeerLane.reset⟩]
  | r :: rs =>
    if r.station = station then
      { r with circuits := r.circuits ||| circuits, commands := r.commands ||| commands } :: rs
    else r :: addRole station circuits commands rs

/-- R36: the peer table of an image, in order of first appearance. -/
def buildPeers (im : Image) : List Peer :=
  let t := im.enabledPorts.foldl
    (fun t p => addRole (recFarStation im.circuits[p]) ((1 : BitVec 8) <<< p.val) 0 t) []
  im.enabledCommands.foldl
    (fun t k => addRole (cmdFarStation im.commands[k]) 0 ((1 : BitVec 4) <<< k.val) t) t

/-! ### A successful CLOSE (R181) -/

/-- R58, R82, R103: a port at a successful CLOSE; a disabled one stays OFF. -/
def Port.closed (r : CircuitRecord) (q : Port) : Port :=
  if recEnabled r then q.startWait r
  else { q with
    asm := Assembler.reset, tx := { q.tx with store := [], sentBits := 0 }, engine := Engine.reset
    clk := ClockLoop.reset, circuit := Circuit.reset, counts := CircuitCounters.zero }

/-- R135, R137, R139, R145: a command's records, its COk released and its qualifier DEASSERTED. -/
def Command.closed (r : CommandRecord) (c : Command) : Command :=
  { c with
    co := false, qualified := false, qualTimer := none
    outgoing := if (cmdDirection r).sends then some (Outgoing.fresh 0) else none
    incoming := if (cmdDirection r).receives then some Incoming.fresh else none }

/-- R137: a CIk that is high at the CLOSE starts its qualification. -/
def qualifyHighPins (s : State) : State := allCommands.foldl (fun s k => judgePin k s) s

/-- R19, R26, R30, R34, R36, R133, R155, R170, R174, R181: a successful CLOSE of the image. -/
def closeImage (s : State) : State :=
  let im := clampImage s.image
  let s1 := { s with
    image := im
    peers := buildPeers im
    ctl := s.ctl.enterQuiet (s.after Config.quietPeriod)
    lanes := s.lanes.map fun (l : Forwarder) => { l with counts := LaneCounters.zero }
    dup := Vector.replicate 62 none
    stats := StationCounters.zero
    marks := PerLane.both MarkLane.reset
    markTimer := none
    echoTimer := none
    changes := ChangeQueue.empty
    cfg := { s.cfg with fault := 0 } }
  qualifyHighPins ((s1.mapPorts fun p q => q.closed im.circuits[p]).mapCmds fun k c => c.closed im.commands[k])

/-! ### Bytes of a write (R178 to R180) -/

/-- R178: a byte that the port takes is acknowledged. -/
def takeByte (s : State) : State := { s with cfg := { s.cfg with ack := true } }

/-- R178: a byte that the port refuses is not acknowledged, and the refusing flag is set. -/
def refuseByte (s : State) : State := { s with cfg := { s.cfg with ack := false, refusing := true } }

/-- R179: the record that a load byte of kind 0 to 3 names. -/
def recordOf (b : Byte) : Option RecordRef :=
  if b.toNat / 8 % 4 = 0 then
    match b.toNat / 32 with
    | 0 => if b.toNat % 8 = 0 then some .station else none
    | 1 => some (.circuit (Fin.ofNat 8 (b.toNat % 8)))
    | 2 => if b.toNat % 8 < 4 then some (.command (Fin.ofNat 4 (b.toNat % 8))) else none
    | 3 => if b.toNat % 8 = 0 then some .steer else none
    | _ => none
  else none

/-- R179: the data octets of a record. -/
def RecordRef.length : RecordRef → Nat
  | .station => 6
  | .circuit _ => 13
  | .command _ => 6
  | .steer => 32

/-- R179: an octet written into the image at an offset of a record. -/
def Image.write (im : Image) (r : RecordRef) (offset : Nat) (b : Byte) : Image :=
  match r with
  | .station => { im with station := im.station.setIfInBounds offset b }
  | .circuit p => { im with circuits := im.circuits.set p (im.circuits[p].setIfInBounds offset b) }
  | .command k => { im with commands := im.commands.set k (im.commands[k].setIfInBounds offset b) }
  | .steer => { im with steer := im.steer.setIfInBounds offset b }

/-- R179: the pointer after one more octet of its record; absent after the last. -/
def LoadPointer.next (l : LoadPointer) : Option LoadPointer :=
  if l.offset + 1 < l.record.length then some { l with offset := l.offset + 1 } else none

/-- R179, R180: a load byte. -/
def judgeLoadByte (b : Byte) (s : State) : State :=
  if b = 0xE0 then
    let f := closeFault s.ctl s.image
    if f = 0 then takeByte (closeImage s)
    else refuseByte { s with cfg := { s.cfg with fault := f } }
  else
    match recordOf b with
    | none => refuseByte s
    | some r => takeByte { s with cfg := { s.cfg with pointer := some ⟨r, 0⟩ } }

/-- R179: a data byte. -/
def writeDataByte (l : LoadPointer) (b : Byte) (s : State) : State :=
  takeByte { s with image := s.image.write l.record l.offset b, cfg := { s.cfg with pointer := l.next } }

/-- R178: a byte of a write after the address. -/
def writeByte (b : Byte) (s : State) : State :=
  if s.cfg.refusing || s.closed then refuseByte s
  else
    match s.cfg.pointer with
    | none => judgeLoadByte b s
    | some l => writeDataByte l b s

/-! ### The status read (R182) -/

/-- R182: the number of enabled circuits in PLAY. -/
def State.playing (s : State) : Nat := (allPorts.filter fun p => (s.port p).circuit.state == .play).length

/-- R182: byte `i + 1` of the status, from the state at the moment its sending begins. -/
def statusByte (i : Fin 4) (s : State) : Byte :=
  match i with
  | 0 => s.ctl.station.code
  | 1 => be8 s.cfg.fault
  | 2 => be8 s.changes.entries.length
  | 3 => be8 s.playing

/-- R182: the port begins to send byte `i + 1`. -/
def sendStatus (i : Fin 4) (s : State) : State :=
  { s with cfg := { s.cfg with phase := .reading i, out := some (statusByte i s) } }

/-! ### The bus (R178) -/

/-- R178: the port's own address. -/
def ConfigPort.address (c : ConfigPort) : Nat := if c.cfga then 0x2B else 0x2A

/-- R178: the first byte after a START. -/
def addressPhase (b : Byte) (s : State) : State :=
  if b.toNat / 2 = s.cfg.address then
    if b.toNat % 2 = 0 then
      { s with cfg := { s.cfg with phase := .writing, pointer := none, refusing := false, ack := true } }
    else sendStatus 0 { s with cfg := { s.cfg with ack := true } }
  else { s with cfg := { s.cfg with phase := .ignoring, ack := false } }

/-- R182: the bus controller has clocked the byte being sent.  Acknowledged, the next of the four begins; not
acknowledged, the read ends and nothing more is sent until a START. -/
def readByte (i : Fin 4) (acked : Bool) (s : State) : State :=
  if acked then sendStatus (i + 1) s
  else { s with cfg := { s.cfg with phase := .ignoring, out := none } }

/-- R178, R182: a byte of eight bits on the bus, judged by where the transaction stands: the first byte after a
START is the address byte; in a write it is a load byte or a data byte by the load pointer; in a read it is the byte
being sent, which the bus controller acknowledges or does not (DEDUCED, log entry 15). -/
def busByte (b : BusByte) (s : State) : State :=
  match s.cfg.phase with
  | .idle => { s with cfg := { s.cfg with ack := false } }
  | .ignoring => { s with cfg := { s.cfg with ack := false } }
  | .address => addressPhase b.bits s
  | .writing => writeByte b.bits s
  | .reading i => readByte i b.acked s

/-- R178: the transaction in progress ends: the load pointer becomes absent and the refusing flag clear. -/
def ConfigPort.opened (phase : BusPhase) (c : ConfigPort) : ConfigPort :=
  { c with phase := phase, pointer := none, refusing := false, ack := false, out := none }

/-- BUS_START (R178): a START opens a transaction and ends one in progress. -/
def execBusStart (s : State) : Result :=
  .next (s.running fun s => { s with cfg := s.cfg.opened .address })

/-- BUS_STOP (R178). -/
def execBusStop (s : State) : Result :=
  .next (s.running fun s => { s with cfg := s.cfg.opened .idle })

/-- ADDRESS_BYTE (R178, R182). -/
def execAddressByte (byte : Byte) (s : State) : Result := .next (s.running (busByte ⟨byte, true⟩))

/-- LOAD_BYTE (R179). -/
def execLoadByte (byte : Byte) (s : State) : Result := .next (s.running (busByte ⟨byte, true⟩))

/-- DATA_BYTE (R179), and in a read the byte that the port sends (R182). -/
def execDataByte (byte : BusByte) (s : State) : Result := .next (s.running (busByte byte))

/-- CLOSE (R180): the load byte 0xE0. -/
def execClose (s : State) : Result := .next (s.running (busByte ⟨0xE0, true⟩))

end Sys2Proof.Machine
end

