-- ==== Sys2Proof/Machine/Dispatch.lean ====
section
/-! DEFINITION. The dispatch: one arm for each command, each a direct call of the command's meaning. -/

namespace Sys2Proof.Machine

def exec (i : Instr) (s : State) : Host.Outcome State Fault Refusal :=
  match i with
  | .coldReset => Sys2Proof.Machine.execColdReset s
  | .resetRelease straps cfga => Sys2Proof.Machine.execResetRelease straps cfga s
  | .frameArrival lane octets => Sys2Proof.Machine.execFrameArrival lane octets s
  | .transmissionCompletion lane => Sys2Proof.Machine.execTransmissionCompletion lane s
  | .echoUnmeasured peer lane => Sys2Proof.Machine.execEchoUnmeasured peer lane s
  | .duplicateEntryExpiry station => Sys2Proof.Machine.execDuplicateEntryExpiry station s
  | .markPeriodExpiry => Sys2Proof.Machine.execMarkPeriodExpiry s
  | .returnTimerExpiry lane => Sys2Proof.Machine.execReturnTimerExpiry lane s
  | .presenceTimerExpiry peer lane => Sys2Proof.Machine.execPresenceTimerExpiry peer lane s
  | .octetReceived port octet => Sys2Proof.Machine.execOctetReceived port octet s
  | .losAsserted port => Sys2Proof.Machine.execLosAsserted port s
  | .losDeasserted port => Sys2Proof.Machine.execLosDeasserted port s
  | .silenceTimerExpiry port => Sys2Proof.Machine.execSilenceTimerExpiry port s
  | .stationCellCompletion port => Sys2Proof.Machine.execStationCellCompletion port s
  | .intervalEvent => Sys2Proof.Machine.execIntervalEvent s
  | .starvation port => Sys2Proof.Machine.execStarvation port s
  | .idleRunLimit port => Sys2Proof.Machine.execIdleRunLimit port s
  | .flushEnd port => Sys2Proof.Machine.execFlushEnd port s
  | .trafficSwitch port => Sys2Proof.Machine.execTrafficSwitch port s
  | .revertTimerExpiry port => Sys2Proof.Machine.execRevertTimerExpiry port s
  | .echoRound => Sys2Proof.Machine.execEchoRound s
  | .ciChange command level => Sys2Proof.Machine.execCiChange command level s
  | .qualificationExpiry command => Sys2Proof.Machine.execQualificationExpiry command s
  | .repeatTimerExpiry command => Sys2Proof.Machine.execRepeatTimerExpiry command s
  | .answerTimerExpiry command => Sys2Proof.Machine.execAnswerTimerExpiry command s
  | .persistenceTimerExpiry command => Sys2Proof.Machine.execPersistenceTimerExpiry command s
  | .holdTimerExpiry command => Sys2Proof.Machine.execHoldTimerExpiry command s
  | .sequenceTimerExpiry command => Sys2Proof.Machine.execSequenceTimerExpiry command s
  | .tkChange command level => Sys2Proof.Machine.execTkChange command level s
  | .takenWindowExpiry command => Sys2Proof.Machine.execTakenWindowExpiry command s
  | .blockChange level => Sys2Proof.Machine.execBlockChange level s
  | .readStation query => Sys2Proof.Machine.execReadStation query s
  | .readCircuit query => Sys2Proof.Machine.execReadCircuit query s
  | .readPeer query => Sys2Proof.Machine.execReadPeer query s
  | .readCommand query => Sys2Proof.Machine.execReadCommand query s
  | .drain query => Sys2Proof.Machine.execDrain query s
  | .setLoopLine query => Sys2Proof.Machine.execSetLoopLine query s
  | .setLoopLocal query => Sys2Proof.Machine.execSetLoopLocal query s
  | .clearLoop query => Sys2Proof.Machine.execClearLoop query s
  | .clearCounts query => Sys2Proof.Machine.execClearCounts query s
  | .restart query => Sys2Proof.Machine.execRestart query s
  | .unknownQueryKind code query => Sys2Proof.Machine.execUnknownQueryKind code query s
  | .quietExpiry => Sys2Proof.Machine.execQuietExpiry s
  | .busStart => Sys2Proof.Machine.execBusStart s
  | .busStop => Sys2Proof.Machine.execBusStop s
  | .addressByte byte => Sys2Proof.Machine.execAddressByte byte s
  | .loadByte byte => Sys2Proof.Machine.execLoadByte byte s
  | .dataByte byte => Sys2Proof.Machine.execDataByte byte s
  | .close => Sys2Proof.Machine.execClose s
  | .bitSampled port bit => Sys2Proof.Machine.execBitSampled port bit s
  | .txcFallingEdge port => Sys2Proof.Machine.execTxcFallingEdge port s

end Sys2Proof.Machine
end

