-- ==== Sys2Proof/Machine/Idle.lean ====
section
/-! DEFINITION. What the part does by itself when no command waits: the events whose station time has come, and
the passing of time. -/

namespace Sys2Proof.Machine

/-- A timer that has expired (R171). -/
def State.timerDue (s : State) (t : Timer) : Bool :=
  match t with
  | none => false
  | some t => expired s.now t

/-- `[c]` when `b` holds. -/
def onlyIf (b : Bool) (c : Instr) : List Instr := if b then [c] else []

/-- The timed events of a lane that are due: a completed transmission (R16), the return timer (R33). -/
def State.dueOnLane (s : State) (L : Lane) : List Instr :=
  (match (s.forwarder L).egress with
    | .idle => []
    | .sending _ => onlyIf (s.clock.sendLeft.get L == 0) (.transmissionCompletion L)) ++
  onlyIf (s.timerDue (s.mark L).returnTimer) (.returnTimerExpiry L)

/-- The cadences and the quiet timer that are due (R31, R120, R174), and the interval event (R70). -/
def State.dueAtStation (s : State) : List Instr :=
  onlyIf (s.ctl.station == .quiet && s.timerDue s.ctl.quiet) .quietExpiry ++
  onlyIf (s.timerDue s.markTimer) .markPeriodExpiry ++
  onlyIf (s.timerDue s.echoTimer) .echoRound ++
  onlyIf (Config.intervalTicks ≤ s.clock.interval) .intervalEvent

/-- The expired entries of the duplicate table (R29). -/
def State.dueDuplicates (s : State) : List Instr :=
  ((List.range 62).map fun i =>
    onlyIf (s.timerDue ((s.dupEntry (i + 1)).map (·.age))) (.duplicateEntryExpiry (BitVec.ofNat 6 (i + 1)))).flatten

/-- The expired presence timers (R39). -/
def State.duePresence (s : State) : List Instr :=
  ((List.range 12).map fun i =>
    match s.peers[i]? with
    | none => []
    | some r =>
      (allLanes.map fun L =>
        onlyIf (s.timerDue (r.lanes.get L).presenceTimer) (.presenceTimerExpiry (Fin.ofNat 12 i) L)).flatten).flatten

/-- The timed events of a port that are due: silence (R44), a station-timed cell (R49), the revert timer (R94),
and the next falling edge of its own transmit clock (R111). -/
def State.dueOnPort (s : State) (p : Fin 8) : List Instr :=
  onlyIf (s.timerDue (s.port p).rx.silence) (.silenceTimerExpiry p) ++
  (match (s.port p).asm.cell with
    | some (.station t) => onlyIf (expired s.now t) (.stationCellCompletion p)
    | some (.line _) => []
    | none => []) ++
  onlyIf (s.ctl.station == .run && s.timerDue (s.port p).circuit.revert) (.revertTimerExpiry p) ++
  onlyIf (s.txRate p != 0 && Config.txBit ≤ s.clock.txPhase[p]) (.txcFallingEdge p)

/-- The timers of a command that have expired (R136, R141, R144, R149, R150). -/
def State.dueOnCommand (s : State) (k : Fin 4) : List Instr :=
  onlyIf (s.timerDue (s.cmd k).qualTimer) (.qualificationExpiry k) ++
  (match (s.cmd k).outgoing with
    | none => []
    | some o =>
      onlyIf (s.timerDue o.repeatTimer) (.repeatTimerExpiry k) ++
      onlyIf (s.timerDue o.answerTimer) (.answerTimerExpiry k)) ++
  (match (s.cmd k).incoming with
    | none => []
    | some r =>
      onlyIf (s.timerDue r.persistence) (.persistenceTimerExpiry k) ++
      onlyIf (s.timerDue r.hold) (.holdTimerExpiry k) ++
      onlyIf (s.timerDue r.seqTimer) (.sequenceTimerExpiry k) ++
      (match r.cycle with
        | none => []
        | some c => onlyIf (s.timerDue c.window) (.takenWindowExpiry k)))

/-- Every timed event that is due at the present station time. -/
def State.dueEvents (s : State) : List Instr :=
  s.dueAtStation ++ (allLanes.map s.dueOnLane).flatten ++ s.dueDuplicates ++ s.duePresence ++
    (allPorts.map s.dueOnPort).flatten ++ (allCommands.map s.dueOnCommand).flatten

/-- With no command waiting: in cold reset nothing happens; an event that is due is taken, one of several by the
state's choice; and with none due a quantum of time passes (DESIGN CHOICE, log entry 1). -/
def idle (s : State) : Result :=
  if s.rstLow then .next s
  else
    let order := arrange 1 s.tieBreak s.dueEvents
    match order.1 with
    | [] => .next (s.elapse 1)
    | c :: _ => exec c { s with tieBreak := order.2 }

end Sys2Proof.Machine
end

