-- ==== Sys2Proof/Safety.lean ====
section
/-! DEFINITION. The terms in which statements about the FR316 speak: which parts of the state an event leaves
alone, what becomes of a frame that is offered to a lane, and the properties that every state of a run has. -/

namespace Sys2Proof.Safety

open Sys2Proof.Machine

/-! ### Frames of statements: what is left unchanged -/

/-- The parts of the state. -/
inductive Part where
  | rstLow | clock | ctl | lanes | dup | stats | marks | markTimer | echoTimer | peers | ports | cmds | block
  | changes | cfg | image | tieBreak | pending
deriving DecidableEq, Repr

/-- Two states agree on a part. -/
def Part.same (x : Part) (s t : State) : Prop :=
  match x with
  | .rstLow => t.rstLow = s.rstLow
  | .clock => t.clock = s.clock
  | .ctl => t.ctl = s.ctl
  | .lanes => t.lanes = s.lanes
  | .dup => t.dup = s.dup
  | .stats => t.stats = s.stats
  | .marks => t.marks = s.marks
  | .markTimer => t.markTimer = s.markTimer
  | .echoTimer => t.echoTimer = s.echoTimer
  | .peers => t.peers = s.peers
  | .ports => t.ports = s.ports
  | .cmds => t.cmds = s.cmds
  | .block => t.block = s.block
  | .changes => t.changes = s.changes
  | .cfg => t.cfg = s.cfg
  | .image => t.image = s.image
  | .tieBreak => t.tieBreak = s.tieBreak
  | .pending => t.pending = s.pending

/-- Going from `s` to `t` changes at most the parts listed: every other part is unchanged. -/
def Touches (parts : List Part) (s t : State) : Prop := ∀ x : Part, x ∉ parts → x.same s t

/-- Every port but `p` is unchanged. -/
def OtherPortsSame (p : Fin 8) (s t : State) : Prop := ∀ q : Fin 8, q ≠ p → t.port q = s.port q

/-- Every command but `k` is unchanged. -/
def OtherCommandsSame (k : Fin 4) (s t : State) : Prop := ∀ j : Fin 4, j ≠ k → t.cmd j = s.cmd j

/-! ### Change entries -/

/-- R166, R167: the change queue after one entry has been made at station time `now`: the entry stands at the
back and ATTN is asserted, or, with 32 entries held, it is lost and the overflow flag is set. -/
def withEntry (now : Time) (c : Change) (q : ChangeQueue) : ChangeQueue :=
  if q.entries.length < 32 then ⟨q.entries ++ [⟨now, c⟩], q.overflow, true⟩ else ⟨q.entries, true, q.attn⟩

/-- R166, R167: going from `s` to `t` an entry has been made first, and others may have followed: it stands behind
the entries that `s` held, or, with 32 held, it is lost and the overflow flag is set. -/
def EntryMade (c : Change) (s t : State) : Prop :=
  if s.changes.entries.length < 32 then ∃ more, t.changes.entries = s.changes.entries ++ ⟨s.now, c⟩ :: more
  else t.changes.entries = s.changes.entries ∧ t.changes.overflow = true

/-- R38, R39: the entries made in going from `s` to `t` hold no PEER-PRESENT and no PEER-ABSENT. -/
def NoPresenceEntry (s t : State) : Prop :=
  ∃ more, t.changes.entries = s.changes.entries ++ more ∧
    ∀ e ∈ more, (∀ j L, e.what ≠ .peerPresent j L) ∧ ∀ j, e.what ≠ .peerAbsent j

/-! ### The circuits of a peer -/

/-- R36, R40, R128: the ports of a peer's circuit role, each once, in some order (log entry 3). -/
def RoleOrder (r : Peer) (order : List (Fin 8)) : Prop :=
  order.Nodup ∧ ∀ p : Fin 8, p ∈ order ↔ r.circuits.getLsbD p.val = true

/-- Lane part `L` of peer record `i`, which reads `r`, replaced by `part`. -/
def withPart (i : Nat) (L : Lane) (r : Peer) (part : PeerLane) (s : State) : State :=
  { s with peers := s.peers.set i { r with lanes := r.lanes.set L part } }

/-- R128, R130: lane part `L` of peer record `i` has become `part`; where that changes its path figure, every circuit
of the peer's circuit role, and no other, computes its delay figure again; otherwise nothing follows. -/
def PartBecomes (i : Nat) (L : Lane) (r : Peer) (part : PeerLane) (s t : State) : Prop :=
  (part.figure = (r.lanes.get L).figure → t = withPart i L r part s) ∧
  (part.figure ≠ (r.lanes.get L).figure → ∃ order choices, RoleOrder r order ∧
    t = order.foldl (fun x p => evaluateDelay p x) { withPart i L r part s with tieBreak := choices })

/-! ### A frame of this station's own on the lanes -/

/-- R15: an egress stays IDLE only with both its queues empty. -/
def Settled (s : State) : Prop :=
  ∀ L : Lane, (s.forwarder L).egress = .idle → (s.forwarder L).transit = [] ∧ (s.forwarder L).localQ = []

/-- R12, R13, R15: what an offered frame (header and body) makes of a lane whose egress is settled.  An IDLE
egress grants it at once; a local queue of fewer than 12 frames takes it at the back; a full queue drops an
ordinary frame, drops its newest ordinary frame for an urgent one, or drops the urgent one when it holds urgent
frames alone, each time adding one to *local drops*. -/
def Offered (f : Octets) (now : Time) (l l' : Forwarder) : Prop :=
  if l.egress = .idle then l' = { l with egress := .sending (withCheck (stamped f now)) }
  else if l.localQ.length < 12 then l' = { l with localQ := l.localQ ++ [f] }
  else if isUrgent f = true ∧ ∃ g ∈ l.localQ, isUrgent g = false then
    ∃ older o newer, l.localQ = older ++ o :: newer ∧ isUrgent o = false ∧ (∀ g ∈ newer, isUrgent g = true) ∧
      l' = { l with localQ := older ++ newer ++ [f],
                    counts := { l.counts with localDrops := bump l.counts.localDrops } }
  else l' = { l with counts := { l.counts with localDrops := bump l.counts.localDrops } }

/-- R16: an IDLE egress that grants an offered frame sends it for 8 ns (two quanta) an octet; a SENDING one goes
on with what it has left. -/
def SendTime (f : Octets) (now : Time) (l : Forwarder) (before after : Nat) : Prop :=
  after = if l.egress = .idle then (withCheck (stamped f now)).length * 2 else before

/-- The frame this station originates next (R11, R173): kind, own number, destination, hop count 63, the frame
sequence counter's value, and the body padded to 47 octets. -/
def ownFrame (k : FrameKind) (dst : Nat) (body : Octets) (s : State) : Octets :=
  buildFrame k (s.ctl.number.getD 0) dst s.ctl.sequence (padTo 47 body)

/-- R11, R173: one frame has been originated: it took one sequence value, one copy was offered to each of the
lanes named, and nothing else changed. -/
def Originates (lanes : List Lane) (f : Octets) (s t : State) : Prop :=
  t.ctl = { s.ctl with sequence := s.ctl.sequence + 1 } ∧
  (∀ L ∈ lanes, Offered f s.now (s.forwarder L) (t.forwarder L) ∧
    SendTime f s.now (s.forwarder L) (s.clock.sendLeft.get L) (t.clock.sendLeft.get L)) ∧
  (∀ L ∉ lanes, t.forwarder L = s.forwarder L ∧ t.clock.sendLeft.get L = s.clock.sendLeft.get L) ∧
  t.clock = { s.clock with sendLeft := t.clock.sendLeft } ∧
  Touches [.ctl, .lanes, .clock] s t

/-- R8, R15: what a forwarded copy makes of a lane whose egress is settled. -/
def Forwarded (copy : Octets) (l l' : Forwarder) : Prop :=
  let counted := { l.counts with framesForwarded := bump l.counts.framesForwarded }
  if l.egress = .idle then l' = { l with egress := .sending copy, counts := counted }
  else if l.transit.length < 16 then l' = { l with transit := l.transit ++ [copy], counts := counted }
  else l' = { l with counts := { l.counts with transitDrops := bump l.counts.transitDrops } }

/-- R17, R121, R122: the ECHO that lane `L` has granted to a station at the time of `s` is filed in the other lane part
of the first peer record of that station; an outstanding echo that it replaces counts as missed, and at the third miss
the samples and the figure go.  A station without a record has nothing filed. -/
def EchoFiled (L : Lane) (station : Nat) (s t : State) : Prop :=
  ((∀ r ∈ s.peers, r.station ≠ station) → Touches [.ctl, .lanes, .clock] s t) ∧
  ∀ (i : Nat) (r : Peer), s.peers[i]? = some r → r.station = station →
    (∀ j < i, ∀ x, s.peers[j]? = some x → x.station ≠ station) →
    let part := r.lanes.get L.other
    ∃ m, Touches [.ctl, .lanes, .clock] s m ∧ PartBecomes i L.other r
      (if part.outstanding = none then { part with outstanding := some s.now }
       else if part.missed < 2 then { part with outstanding := some s.now, missed := part.missed + 1 }
       else { part with outstanding := some s.now, missed := 3, samples := [], figure := none }) m t

/-- R14, R15, R17, R121: an ECHO (header and body) offered to a lane whose egress is IDLE is granted at once: it is
sent stamped with the station time, and filed. -/
def EchoGranted (L : Lane) (f : Octets) (s t : State) : Prop :=
  let sent := withCheck (f.take 9 ++ be32 s.now ++ f.drop 13)
  t.ctl = { s.ctl with sequence := s.ctl.sequence + 1 } ∧
  t.forwarder L = { s.forwarder L with egress := .sending sent } ∧
  t.clock = { s.clock with sendLeft := s.clock.sendLeft.set L (sent.length * 2) } ∧
  t.forwarder L.other = s.forwarder L.other ∧ EchoFiled L (frameDest f) s t ∧
  Touches [.ctl, .lanes, .clock, .peers, .ports, .changes, .tieBreak] s t

/-! ### Frames, octet by octet (chapter 11) -/

/-- R184: one bit into the check register. -/
def checkStep (register : BitVec 32) (bit : Bool) : BitVec 32 :=
  if register.msb = bit then register <<< 1 else (register <<< 1) ^^^ 0x04C11DB7

/-- R183: the bits of octets in the order in which they are sent, the most significant of each first. -/
def bitsSent (o : Octets) : List Bool := o.flatMap fun b => (List.range 8).map fun i => b.getMsbD i

/-- R3, R184 and sections 11.2 and 11.3: the body length of a frame's header is the one that its kind, and within it
the class code of a TRIB or the kind, status and entry count of a QRY-R, require.  (The length of a QRY-R whose status is
neither ACCEPTED nor REFUSED is the model's reading, log entry 16.) -/
def LengthAgrees (f : Octets) : Prop :=
  let body := (f.drop 9).take (rd16 f 7).toNat
  let length := (rd16 f 7).toNat
  let entries := (oct body 6).toNat
  match (oct f 0).toNat with
  | 1 => (oct body 2 = 0 ∧ length = 262) ∨ (oct body 2 = 1 ∧ length = 199) ∨ (oct body 2 = 2 ∧ length = 47)
  | 8 => match (oct body 4).toNat, (oct body 0).toNat with
    | 0, 1 => length = 132
    | 0, 2 => length = 100
    | 0, 3 => length = 98
    | 0, 5 => entries ≤ 8 ∧ length = max 47 (8 + 10 * entries)
    | _, _ => length = 47
  | _ => length = 47

/-- R52, section 11.3: the body of a TRIB with these fields: the cell's octets in order and zeros up to 47. -/
def IsTribBody (destPort srcPort : Nat) (cls : RateClass) (srcLost : Bool) (mode : Option Lane) (count : BitVec 16)
    (cell body : Octets) : Prop :=
  body.length = max 47 (6 + cell.length) ∧
  oct body 0 = BitVec.ofNat 8 destPort ∧ oct body 1 = BitVec.ofNat 8 srcPort ∧
  oct body 2 = (match cls with | .W => 0 | .N => 1 | .S => 2) ∧
  (oct body 3).getLsbD 7 = srcLost ∧
  (oct body 3).setWidth 7 = (match mode with | none => 0 | some .A => 1 | some .B => 2) ∧
  rd16 body 4 = count ∧ (body.drop 6).take cell.length = cell ∧ ∀ i, 6 + cell.length ≤ i → oct body i = 0

/-- R179, section 11.5: the data octets of a record of the image. -/
def recordOctets (im : Image) (r : RecordRef) : Octets :=
  match r with
  | .station => im.station.toList
  | .circuit p => im.circuits[p].toList
  | .command k => im.commands[k].toList
  | .steer => im.steer.toList

/-! ### A frame delivered to this station -/

/-- R23: in RUN, a TRIB whose destination port is an enabled circuit with that far station and far port, pinned to the
lane other than the one on which the copy arrived. -/
def LaneDrops (L : Lane) (f : Octets) (s : State) : Prop :=
  let p := tribDestPort (frameBody f)
  let r := s.setting p
  s.ctl.station = .run ∧ oct f 0 = 1 ∧ (s.port p).enabled = true ∧ frameSource f = recFarStation r ∧
    tribSourcePort (frameBody f) = recFarPort r ∧ (s.port p).circuit.current = some L.other

/-- Section 11.3: the query that the body of a QRY carries. -/
def queryHead (f : Octets) : QueryHead :=
  ⟨BitVec.ofNat 6 (frameSource f), BitVec.ofNat 6 (frameDest f), oct (frameBody f) 1, rd16 (frameBody f) 2⟩

/-- Section 11.3: the row of the command table that a query's kind code names. -/
def queryRow (code : Byte) (q : QueryHead) : Instr :=
  match code.toNat with
  | 1 => .readStation q
  | 2 => .readCircuit q
  | 3 => .readPeer q
  | 4 => .readCommand q
  | 5 => .drain q
  | 6 => .setLoopLine q
  | 7 => .setLoopLocal q
  | 8 => .clearLoop q
  | 9 => .clearCounts q
  | 10 => .restart q
  | _ => .unknownQueryKind code q

/-- R25: in RUN an accepted copy goes to the unit of its kind: the playout engine (1), the delay unit (3, 4), the
command unit (5, 6), the query responder (7); a QRY-R (8) is discarded. -/
def Dispatched (L : Lane) (f : Octets) (s t : State) : Prop :=
  let body := frameBody f
  match (oct f 0).toNat with
  | 1 => t = receiveTrib L (frameSource f) body s
  | 3 => t = answerEcho L (frameSource f) (frameDest f) body s
  | 4 => t = matchEcho L (frameSource f) body s
  | 5 => t = receiveCmd (frameSource f) (frameSeq f) body s
  | 6 => t = receiveCmdAck (frameSource f) body s
  | 7 => exec (queryRow (oct body 0) (queryHead f)) s = .next t
  | _ => t = s

/-- R6, R22 to R25, R28 to R30, R38: one copy is delivered: it is counted on its lane and restarts the age of its
source's valid entry.  A MARK goes to the first peer record of its source when it states RUN (code 3).  Of the other
kinds a copy that the lane filter drops is counted and marks the tally; every other meets the window: a duplicate or
stale copy is counted, an accepted one is remembered and, in RUN, dispatched. -/
def Delivered (L : Lane) (f : Octets) (s t : State) : Prop :=
  let src := frameSource f
  let e := s.dupEntry src
  let aged := (s.countLane L fun c => { c with framesDelivered := bump c.framesDelivered }).setDup src
    (e.map fun x => { x with age := s.after 2000000 })
  (oct f 0 = 2 →
    (oct (frameBody f) 4 ≠ 3 ∨ (∀ r ∈ s.peers, r.station ≠ src) → t = aged) ∧
    (oct (frameBody f) 4 = 3 → ∀ (i : Nat) (r : Peer), s.peers[i]? = some r → r.station = src →
      (∀ j < i, ∀ x, s.peers[j]? = some x → x.station ≠ src) → t = peerMark i L (frameHop f) aged)) ∧
  (oct f 0 ≠ 2 →
    (LaneDrops L f s → t = aged.modPort (tribDestPort (frameBody f)) fun q => { q with
      counts := { q.counts with otherLaneCells := bump q.counts.otherLaneCells }
      circuit := { q.circuit with tally := { q.circuit.tally with otherMark := true } } }) ∧
    (¬LaneDrops L f s →
      match judgeSequence e (frameSeq f) with
      | .duplicate => t = { aged with stats := { s.stats with duplicateDiscards := bump s.stats.duplicateDiscards } }
      | .stale => t = { aged with stats := { s.stats with staleDiscards := bump s.stats.staleDiscards } }
      | .accepted front w =>
        let known := aged.setDup src (some ⟨front, w, s.after 2000000⟩)
        (s.ctl.station = .run → Dispatched L f known t) ∧ (s.ctl.station ≠ .run → t = known)))

/-! ### The interval event of a circuit -/

/-- R57, R59: the transmit store after an interval's octets: they join it up to 2N octets, or are discarded in line
loop. -/
def withOctets (r : CircuitRecord) (q : Port) (os : Octets) : Transmitter :=
  if q.circuit.loop = .line then q.tx else { q.tx with store := (q.tx.store ++ os).take (2 * recN r) }

/-- R110, R112: the holdover computation of a clock loop of N octets an interval: the applied correction is the held
one, and the accumulator takes up N × H, giving an octet more or fewer at a whole octet. -/
def HeldOver (n : Nat) (c c' : ClockLoop) : Prop :=
  let sum := c.accumulator + n * c.held
  c'.applied = c.held ∧ c'.held = c.held ∧ c'.integrator = c.integrator ∧
  (c'.next, c'.accumulator) =
    (if 1000000000 ≤ sum then (n + 1, sum - 1000000000)
     else if sum ≤ -1000000000 then (n - 1, sum + 1000000000) else (n, sum))

/-! ### A circuit's lane and the values of cold reset -/

/-- R94: the revert timer of circuit `p` after a switch to `lane`: it runs for W seconds when the circuit stands off
its configured lane, W is 1 or more and the far peer is present there, and is stopped otherwise. -/
def revertAfter (p : Fin 8) (lane : Lane) (s : State) : Timer :=
  let wait := recRevertWait (s.setting p)
  match (recMode (s.setting p)).configured with
  | none => none
  | some c => if lane ≠ c ∧ 1 ≤ wait ∧ s.farPresent p c = true then some (s.after (wait * 10000000)) else none

/-- R93, R94, R130: circuit `p`'s current lane has switched to `lane`: the switch is counted and entered, the tally is 0,
the revert timer is as R94 says, and the delay figure and the OVER-BUDGET flag are computed again on the new lane;
nothing else of the port follows, and no other port changes. -/
def Switched (p : Fin 8) (lane : Lane) (s t : State) : Prop :=
  let before := s.port p
  let after := t.port p
  let circuit : Circuit := { before.circuit with
    current := some lane, tally := ⟨false, false, 0, false⟩, revert := revertAfter p lane s }
  let counts := { before.counts with laneSwitches := bump before.counts.laneSwitches }
  after = { before with counts := counts, circuit := { circuit with
    delay := after.circuit.delay, overBudget := after.circuit.overBudget } } ∧
  EntryMade (.laneSwitch p lane) s t ∧ OtherPortsSame p s t ∧ Touches [.ports, .changes] s t ∧
  t = evaluateDelay p { s.modPort p (fun q => { q with counts := counts, circuit := circuit }) with
    changes := withEntry s.now (.laneSwitch p lane) s.changes }

/-- R19, R26, R30, R34, R36, R56, R58, R81, R103, R155, R170 to R172, R179: every block at the value that cold
reset gives it; the levels of the input pins and the waiting commands are those of `s`. -/
def ColdValues (s t : State) : Prop :=
  t.clock.time = 0 ∧ t.ctl.quiet = none ∧ t.ctl.sequence = 0 ∧
  (∀ L : Lane, t.forwarder L = ⟨[], [], .idle, LaneCounters.zero⟩ ∧ t.mark L = ⟨.closed, none, none⟩) ∧
  (∀ i : Fin 62, t.dup[i] = none) ∧ t.peers = [] ∧ t.stats = StationCounters.zero ∧
  t.markTimer = none ∧ t.echoTimer = none ∧
  (∀ p : Fin 8, (t.port p).circuit.state = .off ∧ (t.port p).circuit.asymmetric = false ∧
    (t.port p).circuit.overBudget = false ∧ (t.port p).rx = ⟨[], (s.port p).rx.los, .lost, none⟩ ∧
    (t.port p).asm = ⟨false, none, 0⟩ ∧ (t.port p).tx.txd = true ∧ (t.port p).tx.store = [] ∧
    (∀ i : Fin 16, (t.port p).engine.buffer[i] = none) ∧ (t.port p).engine.position = none ∧
    (t.port p).engine.fill = 0 ∧ (t.port p).counts = CircuitCounters.zero) ∧
  (∀ k : Fin 4, t.cmd k = ⟨(s.cmd k).ci, (s.cmd k).tk, false, false, none, none, none⟩) ∧
  t.changes = ⟨[], false, false⟩ ∧ t.cfg.pointer = none ∧ t.cfg.refusing = false ∧ t.cfg.phase = .idle ∧
  t.cfg.fault = 0 ∧ t.image = Image.reset ∧ t.block = s.block ∧ t.pending = s.pending

/-! ### Reply records (section 11.4) -/

/-- R183: four-octet numbers that stand one after another from an offset. -/
def WordsAt (o : Octets) (base : Nat) (ws : List (BitVec 32)) : Prop :=
  ∀ (i : Nat) (w : BitVec 32), ws[i]? = some w → rd32 o (base + 4 * i) = w

/-- Section 11.4: a lane part of READ-STATION at an offset. -/
def LanePartAt (o : Octets) (base : Nat) (m : MarkLane) (c : LaneCounters) : Prop :=
  oct o base = (match m.state with | .closed => 0 | .opened => 1) ∧
  oct o (base + 1) = BitVec.ofNat 8 (m.ringSize.getD 0) ∧
  WordsAt o (base + 2) [c.framesReceived, c.checkFailures, c.malformed, c.stripped, c.framesDelivered, c.hopExpired,
    c.framesForwarded, c.transitDrops, c.localDrops, c.framesSent]

/-- R159, section 11.4: the READ-STATION record of a state. -/
def IsStationRecord (s : State) (o : Octets) : Prop :=
  o.length = 126 ∧ oct o 0 = BitVec.ofNat 8 (s.ctl.number.getD 0) ∧
  oct o 1 = (match s.ctl.station with | .noAddress => 0 | .load => 1 | .quiet => 2 | .run => 3 | .clash => 4) ∧
  rd32 o 2 = s.now ∧ oct o 6 = BitVec.ofNat 8 s.peers.length ∧ oct o 7 = 0 ∧
  LanePartAt o 8 (s.mark .A) (s.forwarder .A).counts ∧ LanePartAt o 50 (s.mark .B) (s.forwarder .B).counts ∧
  WordsAt o 92 [s.stats.duplicateDiscards, s.stats.staleDiscards, s.stats.unexpectedCircuit, s.stats.classMismatch,
    s.stats.staleEchoes, s.stats.invalidEchoes, s.stats.unexpectedCommands, s.stats.staleAnswers] ∧
  oct o 124 = BitVec.ofNat 8 s.changes.entries.length ∧ oct o 125 = (if s.changes.overflow then 1 else 0)

/-- R160, section 11.4: the READ-CIRCUIT record of a port; a disabled one sends its image fields and line state, every
other octet zero.  (The far station in six bits: log entry 12.) -/
def IsCircuitRecord (r : CircuitRecord) (q : Port) (o : Octets) : Prop :=
  let c := q.circuit
  let n := q.counts
  let line : Byte := match q.rx.line with | .present => 0 | .lost => 1
  o.length = 94 ∧
  oct o 0 = (match recClass r with | .W => 0 | .N => 1 | .S => 2) ∧
  oct o 1 = (match recMode r with | .first => 0 | .pinA => 1 | .pinB => 2) ∧
  oct o 2 = BitVec.ofNat 8 (recFarStation r % 64) ∧ oct o 3 = BitVec.ofNat 8 (recFarPort r) ∧
  oct o 4 = BitVec.ofNat 8 (recTarget r) ∧ oct o 5 = 0 ∧ rd16 o 6 = BitVec.ofNat 16 (recBudget r) ∧
  (q.enabled = false → oct o 18 = line ∧ ∀ i, 8 ≤ i → i < 94 → i ≠ 18 → oct o i = 0) ∧
  (q.enabled = true →
    oct o 8 = (match c.state with | .off => 0 | .wait => 1 | .flush => 2 | .prefill => 3 | .play => 4) ∧
    oct o 9 = BitVec.ofNat 8 c.flushCount ∧
    oct o 10 = (match c.current with | none => 0 | some .A => 1 | some .B => 2) ∧
    oct o 11 = BitVec.ofNat 8 c.tally.run ∧
    (∀ i : Fin 8, (oct o 12).getLsbD i.val = [c.asymmetric, c.overBudget, c.revert.isSome, q.engine.position.isSome,
      c.delay.isSome, false, false, false].getD i.val false) ∧
    oct o 13 = (match c.loop with | .none => 0 | .loc => 1 | .line => 2) ∧
    rd32 o 14 = c.revert.getD 0 ∧ oct o 18 = line ∧ oct o 19 = 0 ∧ rd16 o 20 = BitVec.ofNat 16 q.engine.fill ∧
    rd16 o 22 = (q.engine.position.map (·.count)).getD 0 ∧
    rd16 o 24 = BitVec.ofNat 16 ((q.engine.position.map (·.offset)).getD 0) ∧
    rd32 o 26 = BitVec.ofInt 32 q.clk.applied ∧ rd32 o 30 = BitVec.ofInt 32 q.clk.held ∧
    rd32 o 34 = BitVec.ofNat 32 (c.delay.getD 0) ∧
    WordsAt o 38 [n.cellsAssembled, n.srcLostCells, n.lineLosses, n.cellsAccepted, n.duplicateCells, n.late, n.slips,
      n.missing, n.starvations, n.flushedCells, n.playedA, n.playedB, n.laneSwitches, n.otherLaneCells])

/-- Section 11.4: a lane part of READ-PEER at an offset; the slots beyond the samples held are zero. -/
def PeerPartAt (o : Octets) (base : Nat) (l : PeerLane) : Prop :=
  (∀ i : Fin 8, (oct o base).getLsbD i.val =
    [l.present, false, l.outstanding.isSome, l.figure.isSome, false, false, false, false].getD i.val false) ∧
  oct o (base + 1) = BitVec.ofNat 8 (l.hop.getD 0) ∧ oct o (base + 2) = BitVec.ofNat 8 l.missed ∧
  oct o (base + 3) = BitVec.ofNat 8 l.samples.length ∧ rd32 o (base + 4) = l.outstanding.getD 0 ∧
  rd32 o (base + 8) = BitVec.ofNat 32 (l.figure.getD 0) ∧
  ∀ i : Fin 8, rd32 o (base + 12 + 4 * i.val) = BitVec.ofNat 32 (l.samples.getD i.val 0)

/-- R161, section 11.4: the READ-PEER record, of a peer with at most eight samples on each lane (R127). -/
def IsPeerRecord (r : Peer) (o : Octets) : Prop :=
  (∀ L : Lane, (r.lanes.get L).samples.length ≤ 8) →
  o.length = 92 ∧ oct o 0 = BitVec.ofNat 8 r.station ∧ oct o 1 = r.circuits ∧
  oct o 2 = r.commands.setWidth 8 ∧ oct o 3 = 0 ∧ PeerPartAt o 4 (r.lanes.get .A) ∧ PeerPartAt o 48 (r.lanes.get .B)

/-- R161, section 11.4: the READ-COMMAND record; a record that is absent is zero.  (The far station in six bits: log
entry 12.) -/
def IsCommandRecord (r : CommandRecord) (c : Command) (o : Octets) : Prop :=
  o.length = 22 ∧
  oct o 0 = (match cmdDirection r with | .disabled => 0 | .send => 1 | .receive => 2 | .both => 3) ∧
  oct o 1 = (if cmdDirection r = .disabled then 0 else BitVec.ofNat 8 (cmdFarStation r % 64)) ∧
  oct o 2 = (if c.qualified = true ∧ c.outgoing.isSome = true then 1 else 0) ∧
  (∀ i : Fin 8, (oct o 3).getLsbD i.val =
    [c.outgoing.isSome, c.incoming.isSome, false, false, false, false, false, false].getD i.val false) ∧
  (c.outgoing = none → ∀ i, 4 ≤ i → i < 10 → oct o i = 0) ∧
  (∀ x, c.outgoing = some x →
    oct o 4 = (match x.activity with | .idle => 0 | .on => 1 | .releasing => 2) ∧ oct o 5 = x.activation ∧
    oct o 6 = (match x.answer with
      | .none => 0 | .awaiting => 1 | .answered => 2 | .answeredLate => 3 | .unanswered => 4) ∧
    (x.conditions = none → oct o 7 = 0) ∧
    (∀ d, x.conditions = some d → ∀ i : Fin 8, (oct o 7).getLsbD i.val =
      [d.taken, d.already, d.blocked, false, false, false, false, true].getD i.val false) ∧
    oct o 8 = BitVec.ofNat 8 x.offLeft ∧ oct o 9 = 0) ∧
  (c.incoming = none → ∀ i, 10 ≤ i → i < 22 → oct o i = 0) ∧
  (∀ x, c.incoming = some x →
    oct o 10 = (match x.state with | .idle => 0 | .active => 1 | .holding => 2 | .refused => 3) ∧
    (∀ i : Fin 8, (oct o 11).getLsbD i.val = [x.lastSeq.isSome, x.activation.isSome, x.assertTime.isSome,
      x.cycle.isSome, false, false, false, false].getD i.val false) ∧
    rd16 o 12 = x.lastSeq.getD 0 ∧ oct o 14 = x.activation.getD 0 ∧
    (x.cycle = none → oct o 15 = 0 ∧ oct o 16 = 0) ∧
    (∀ d, x.cycle = some d → oct o 15 = d.activation ∧ ∀ i : Fin 8, (oct o 16).getLsbD i.val =
      [d.already, d.answered, false, false, false, false, false, false].getD i.val false) ∧
    oct o 17 = 0 ∧ rd32 o 18 = x.assertTime.getD 0)

/-- R166, R168, section 11.4: the DRAIN record of at most eight entries and the flag. -/
def IsDrainRecord (taken : List ChangeEntry) (overflow : Bool) (o : Octets) : Prop :=
  let lane (L : Lane) : Nat := match L with | .A => 1 | .B => 2
  o.length = 2 + 10 * taken.length ∧ oct o 0 = BitVec.ofNat 8 taken.length ∧ oct o 1 = (if overflow then 1 else 0) ∧
  ∀ (i : Nat) (e : ChangeEntry), taken[i]? = some e →
    rd32 o (2 + 10 * i) = e.time ∧
    ((oct o (6 + 10 * i)).toNat, oct o (7 + 10 * i), rd32 o (8 + 10 * i)) = (match e.what with
      | .circuitState p x => (1, BitVec.ofNat 8 p.val, match x with
          | .off => 0 | .wait => 1 | .flush => 2 | .prefill => 3 | .play => 4)
      | .laneSwitch p L => (2, BitVec.ofNat 8 p.val, BitVec.ofNat 32 (lane L))
      | .asymmetry p b => (3, BitVec.ofNat 8 p.val, if b then 1 else 0)
      | .budget p b => (4, BitVec.ofNat 8 p.val, if b then 1 else 0)
      | .laneOpen L => (5, BitVec.ofNat 8 (lane L), 0)
      | .laneClosed L size => (6, BitVec.ofNat 8 (lane L), BitVec.ofNat 32 (size % 256))
      | .peerPresent j L => (7, BitVec.ofNat 8 j, BitVec.ofNat 32 (lane L))
      | .peerAbsent j => (8, BitVec.ofNat 8 j, 0)
      | .cmdSent k a => (9, BitVec.ofNat 8 (k.val + 1), a.setWidth 32)
      | .cmdUnanswered k a => (10, BitVec.ofNat 8 (k.val + 1), a.setWidth 32)
      | .cmdReceived k a => (11, BitVec.ofNat 8 (k.val + 1), a.setWidth 32)
      | .clash L v => (12, BitVec.ofNat 8 (lane L), v))

/-! ### Station time -/

/-- R171: the commands that fall at a running timer's station time, and that time, in a state. -/
def RunsTo (s : State) (c : Instr) (u : Time) : Prop :=
  match c with
  | .returnTimerExpiry L => (s.mark L).returnTimer = some u
  | .quietExpiry => s.ctl.station = .quiet ∧ s.ctl.quiet = some u
  | .markPeriodExpiry => s.markTimer = some u
  | .echoRound => s.echoTimer = some u
  | .duplicateEntryExpiry st => ∃ e, s.dupEntry st.toNat = some e ∧ e.age = u
  | .presenceTimerExpiry i L => ∃ r, s.peers[i.val]? = some r ∧ (r.lanes.get L).presenceTimer = some u
  | .silenceTimerExpiry p => (s.port p).rx.silence = some u
  | .stationCellCompletion p => (s.port p).asm.cell = some (.station u)
  | .revertTimerExpiry p => s.ctl.station = .run ∧ (s.port p).circuit.revert = some u
  | .qualificationExpiry k => (s.cmd k).qualTimer = some u
  | .repeatTimerExpiry k => ∃ o, (s.cmd k).outgoing = some o ∧ o.repeatTimer = some u
  | .answerTimerExpiry k => ∃ o, (s.cmd k).outgoing = some o ∧ o.answerTimer = some u
  | .persistenceTimerExpiry k => ∃ r, (s.cmd k).incoming = some r ∧ r.persistence = some u
  | .holdTimerExpiry k => ∃ r, (s.cmd k).incoming = some r ∧ r.hold = some u
  | .sequenceTimerExpiry k => ∃ r, (s.cmd k).incoming = some r ∧ r.seqTimer = some u
  | .takenWindowExpiry k => ∃ r x, (s.cmd k).incoming = some r ∧ r.cycle = some x ∧ x.window = some u
  | _ => False

/-- R58, R59, R111: what 4 ns add to the phase of port `p`'s own transmit clock, of which 250,000 × 10^9 are one bit:
nothing in line loop, 8 × N × 10^9 at a disabled port, 8 × N × (10^9 + C) at an enabled one; N is class W's until the
image is closed. -/
def phaseRate (p : Fin 8) (s : State) : Nat :=
  let q := s.port p
  let n := if s.ctl.station = .quiet ∨ s.ctl.station = .run ∨ s.ctl.station = .clash then recN (s.setting p) else 256
  if q.enabled = false then 8 * n * 1000000000
  else if q.circuit.loop = .line then 0 else 8 * n * (1000000000 + q.clk.applied).toNat

/-- R16, R70, R111, R171: the timed commands whose time has come in a state. -/
def FallsDue (s : State) (c : Instr) : Prop :=
  (∃ u, RunsTo s c u ∧ expired s.now u = true) ∨
  (∃ L f, c = .transmissionCompletion L ∧ (s.forwarder L).egress = .sending f ∧ s.clock.sendLeft.get L = 0) ∨
  (c = .intervalEvent ∧ 10000 ≤ s.clock.interval) ∨
  ∃ p : Fin 8, c = .txcFallingEdge p ∧ phaseRate p s ≠ 0 ∧ 250000 * 1000000000 ≤ s.clock.txPhase[p]

/-! ### Properties of every state of a run -/

/-- R10, R14, R15, R166, R169: the queues keep their capacities, an IDLE egress has nothing waiting, and ATTN is
asserted exactly while the change queue holds an entry. -/
def QueuesOk (s : State) : Prop :=
  (∀ L : Lane, (s.forwarder L).transit.length ≤ 16 ∧ (s.forwarder L).localQ.length ≤ 12) ∧ Settled s ∧
  s.changes.entries.length ≤ 32 ∧ s.changes.attn = !s.changes.entries.isEmpty

/-- R104: the quantities of a clock loop stay within their ranges. -/
def ClockLoopOk (c : ClockLoop) : Prop :=
  (-100000 ≤ c.integrator ∧ c.integrator ≤ 100000) ∧ (-100000 ≤ c.held ∧ c.held ≤ 100000) ∧
  (-100000 ≤ c.applied ∧ c.applied ≤ 100000) ∧ (-999999999 ≤ c.accumulator ∧ c.accumulator ≤ 999999999)

/-- R104 at every port. -/
def ClockLoopsOk (s : State) : Prop := ∀ p : Fin 8, ClockLoopOk (s.port p).clk

/-- R151: COk is asserted exactly while incoming record k is ACTIVE or HOLDING; a command with no incoming
record holds COk released. -/
def OutputFollows (c : Command) : Prop :=
  c.co = true ↔ ∃ r, c.incoming = some r ∧ (r.state = .active ∨ r.state = .holding)

/-- R151 at every command. -/
def OutputsFollow (s : State) : Prop := ∀ k : Fin 4, OutputFollows (s.cmd k)

/-- R37, R122, R127, R128: a lane part of a peer record: at most 8 samples, a missed count of 0..3, no sample at 3,
and the path figure the smallest sample halved. -/
def PeerLaneOk (l : PeerLane) : Prop :=
  l.samples.length ≤ 8 ∧ l.missed ≤ 3 ∧ (l.missed = 3 → l.samples = []) ∧
  (l.figure = none ↔ l.samples = []) ∧
  ∀ f, l.figure = some f → ∃ x ∈ l.samples, f = x / 2 ∧ ∀ y ∈ l.samples, x ≤ y

/-- The same at both lanes of every peer record, of which there are at most 12 (R36). -/
def PeersOk (s : State) : Prop := s.peers.length ≤ 12 ∧ ∀ r ∈ s.peers, ∀ L : Lane, PeerLaneOk (r.lanes.get L)

/-- R63, R64: a playout engine: each held cell stands in the slot of its count and lies 0..15 counts from the play
position; without a position the buffer is empty, and in OFF, WAIT and FLUSH there is no position. -/
def EngineOk (q : Port) : Prop :=
  (∀ i : Fin 16, ∀ h, q.engine.buffer[i] = some h → h.count.toNat % 16 = i.val ∧
    ∃ pos, q.engine.position = some pos ∧ (h.count - pos.count).toNat ≤ 15) ∧
  (q.circuit.state = .off ∨ q.circuit.state = .wait ∨ q.circuit.state = .flush → q.engine.position = none)

/-- R63, R64 at every port. -/
def EnginesOk (s : State) : Prop := ∀ p : Fin 8, EngineOk (s.port p)

/-- R172, R174, R175, R177: the station has a number, 1..62, exactly outside NO-ADDRESS, and the quiet timer runs
exactly in QUIET. -/
def StationOk (s : State) : Prop :=
  (s.ctl.number = none ↔ s.ctl.station = .noAddress) ∧ (∀ n, s.ctl.number = some n → 1 ≤ n ∧ n ≤ 62) ∧
  (s.ctl.quiet ≠ none ↔ s.ctl.station = .quiet)

/-- The transitions gathered in chapter 10: which station state may follow which in one event, cold reset and its
release apart. -/
def MayFollow : StationState → StationState → Bool
  | .load, .quiet => true
  | .quiet, .run => true
  | .run, .quiet => true
  | .quiet, .clash => true
  | .run, .clash => true
  | .noAddress, .noAddress => true
  | .load, .load => true
  | .quiet, .quiet => true
  | .run, .run => true
  | .clash, .clash => true
  | _, _ => false

end Sys2Proof.Safety
end

