-- ==== Sys2Proof/Certificates/Slice0/Obligations.lean ====
section
/-! DEFINITION. The statements for the provers, in the order of the specification's chapters after the statements
about the whole machine.  Every statement about a command gives its completion and its frame; a statement that
rests on a choice of the model names its log entry. -/

open Sys2Proof Sys2Proof.Machine Sys2Proof.Safety

/-! ### The whole machine -/

/-- A step takes the command at the front of the queue and runs it on the state with the queue's rest. -/
def Obligations.StepRunsFrontCommand : Prop :=
  ∀ (c : Instr) (rest : List Instr) (s : State), s.pending = c :: rest → step s = exec c { s with pending := rest }

/-- Every command of every state ends in a next state, and none touches the commands that wait. -/
def Obligations.ExecKeepsQueue : Prop :=
  ∀ (c : Instr) (s : State), ∃ t, exec c s = .next t ∧ t.pending = s.pending

/-- R10, R14, R15, R166, R169: every step keeps the capacities of the queues, an IDLE egress has nothing waiting,
and ATTN follows the change queue. -/
def Obligations.QueuesKept : Prop := ∀ s t : State, QueuesOk s → step s = .next t → QueuesOk t

/-- R104, R109, R110: every step keeps the quantities of every clock loop within their ranges. -/
def Obligations.ClockLoopsKept : Prop := ∀ s t : State, ClockLoopsOk s → step s = .next t → ClockLoopsOk t

/-- R151: every step keeps each COk asserted exactly while its incoming record is ACTIVE or HOLDING. -/
def Obligations.OutputsKept : Prop := ∀ s t : State, OutputsFollow s → step s = .next t → OutputsFollow t

/-- R37, R122, R127, R128: every step keeps the echo parts of every peer record as the rules relate them. -/
def Obligations.PeersKept : Prop := ∀ s t : State, PeersOk s → step s = .next t → PeersOk t

/-- R63, R64: every step keeps every playout buffer: cells in their slots, within 15 counts of the position, none
without a position, no position in OFF, WAIT or FLUSH. -/
def Obligations.EnginesKept : Prop := ∀ s t : State, EnginesOk s → step s = .next t → EnginesOk t

/-- R172, R174, R175, R177: every step keeps a station number exactly outside NO-ADDRESS and the quiet timer
running exactly in QUIET. -/
def Obligations.StationKept : Prop := ∀ s t : State, StationOk s → step s = .next t → StationOk t

/-- The transitions gathered in chapter 10 (R172 to R177): no other event than cold reset and its release changes
the station state otherwise; CLASH and NO-ADDRESS are left by cold reset alone. -/
def Obligations.StationTransitions : Prop :=
  ∀ (c : Instr) (s t : State), StationOk s → c ≠ .coldReset → (∀ straps cfga, c ≠ .resetRelease straps cfga) →
    exec c s = .next t → MayFollow s.ctl.station t.ctl.station = true ∧ t.ctl.number = s.ctl.number

/-- The properties that every step keeps hold in the state of cold reset. -/
def Obligations.PropertiesHoldAtReset : Prop :=
  QueuesOk State.reset ∧ ClockLoopsOk State.reset ∧ OutputsFollow State.reset ∧ PeersOk State.reset ∧
    EnginesOk State.reset ∧ StationOk State.reset

/-- R36, R82, R115, R135, R178: from a successful CLOSE until cold reset no event changes the image, the stations
and roles of the peer records, or which circuits are OFF. -/
def Obligations.ImageFixedOnceClosed : Prop :=
  ∀ (c : Instr) (s t : State), s.closed = true → s.rstLow = false → c ≠ .coldReset → exec c s = .next t →
    t.image = s.image ∧
    t.peers.map (fun r => (r.station, r.circuits, r.commands)) =
      s.peers.map (fun r => (r.station, r.circuits, r.commands)) ∧
    ∀ p : Fin 8, (t.port p).enabled = (s.port p).enabled

/-- R19, R26, R34, R36, R56, R58, R81, R103, R155, R170, R171, R172 and R179: cold reset puts every block
at its cold reset value, with RSTn low; its release leaves those values and gives LOAD with the straps' station number
when that is 1 to 62, else NO-ADDRESS.  (That both keep the levels of LOSk, CIk, TKk and BLOCK is the model's choice,
log entry 5.) -/
def Obligations.ColdResetAndRelease : Prop :=
  (∀ s : State, ∃ t, exec .coldReset s = .next t ∧ ColdValues s t ∧ t.rstLow = true) ∧
  (∀ (s : State) (straps : BitVec 6) (cfga : Bool), s.rstLow = true →
    ∃ t, exec (.resetRelease straps cfga) s = .next t ∧ ColdValues s t ∧ t.rstLow = false ∧ t.cfg.cfga = cfga ∧
      (if 1 ≤ straps.toNat ∧ straps.toNat ≤ 62 then t.ctl.station = .load ∧ t.ctl.number = some straps.toNat
       else t.ctl.station = .noAddress ∧ t.ctl.number = none))

/-! ### Chapter 1: lanes and forwarding -/

/-- R14: the arbiter's order: the oldest urgent local frame, else the oldest transit frame, else the oldest
ordinary local frame; the granted frame leaves its queue and the egress becomes SENDING.  Nothing is granted while
the egress is SENDING or with both queues empty.  An own frame is sent stamped and with its check sequence (R17). -/
def Obligations.ArbiterOrder : Prop :=
  ∀ (L : Lane) (s : State),
    let l := s.forwarder L
    let l' := (grant L s).forwarder L
    (∀ g, l.egress = .sending g → grant L s = s) ∧
    (l.transit = [] → l.localQ = [] → grant L s = s) ∧
    (l.egress = .idle →
      (∀ older f newer, l.localQ = older ++ f :: newer → (∀ g ∈ older, isUrgent g = false) → isUrgent f = true →
        l' = { l with localQ := older ++ newer, egress := .sending (withCheck (stamped f s.now)) }) ∧
      ((∀ g ∈ l.localQ, isUrgent g = false) →
        (∀ f rest, l.transit = f :: rest → l' = { l with transit := rest, egress := .sending f }) ∧
        (∀ f rest, l.transit = [] → l.localQ = f :: rest →
          l' = { l with localQ := rest, egress := .sending (withCheck (stamped f s.now)) })))

/-- R17, R121, R122, R128, R130: at the grant of an ECHO its t1 is the station time at the grant, and it is filed in the
lane part opposite to the sending lane; an outstanding echo that it replaces counts as missed, and at the third miss the
samples and the figure go.  A figure that goes takes every circuit of the peer's circuit role, and no other, through its
delay figure again. -/
def Obligations.EchoStampedAndFiled : Prop :=
  ∀ (L : Lane) (s : State) (f : Octets) (rest : List Octets) (i : Nat) (r : Peer),
    (s.forwarder L).egress = .idle → (s.forwarder L).transit = [] → (s.forwarder L).localQ = f :: rest →
    (∀ g ∈ rest, isUrgent g = false) → oct f 0 = 3 → 13 ≤ f.length →
    s.peers[i]? = some r → r.station = frameDest f →
    (∀ j < i, ∀ x, s.peers[j]? = some x → x.station ≠ frameDest f) →
    let t := grant L s
    let part := r.lanes.get L.other
    (t.forwarder L).egress = .sending (withCheck (f.take 9 ++ be32 s.now ++ f.drop 13)) ∧
    (t.forwarder L).localQ = rest ∧
    (∃ m, Touches [.lanes, .clock] s m ∧
      (part.outstanding = none → PartBecomes i L.other r { part with outstanding := some s.now } m t) ∧
      (part.outstanding ≠ none → part.missed < 2 →
        PartBecomes i L.other r { part with outstanding := some s.now, missed := part.missed + 1 } m t) ∧
      (part.outstanding ≠ none → 2 ≤ part.missed →
        PartBecomes i L.other r
          { part with outstanding := some s.now, missed := 3, samples := [], figure := none } m t)) ∧
    t.forwarder L.other = s.forwarder L.other ∧
    Touches [.lanes, .clock, .peers, .ports, .changes, .tieBreak] s t

/-- R11, R12, R13, R15, R16, R173: in RUN an originated frame takes the next sequence value and one copy is offered to
each lane named, each lane's queue judging its own copy; outside RUN nothing happens.  An ECHO, R17, R121, offered to lanes
that are sending is judged by their queues like any frame; offered to a lane whose egress is IDLE it is granted at once:
sent stamped, and its t1 filed.  The stamp of an ECHO is its t1, in octets 9 to 12 of the frame, and that of an ECHO-R
its t3, in octets 17 to 20; no other kind is stamped. -/
def Obligations.OriginationRule : Prop :=
  (∀ (k : FrameKind) (dst : Nat) (body : Octets) (lanes : List Lane) (s : State),
    s.ctl.station = .run → Settled s → lanes.Nodup → k ≠ .echo →
    Originates lanes (ownFrame k dst body s) s (originate k dst body lanes s)) ∧
  (∀ (k : FrameKind) (dst : Nat) (body : Octets) (lanes : List Lane) (s : State),
    s.ctl.station ≠ .run → originate k dst body lanes s = s) ∧
  (∀ (k : FrameKind) (dst : Nat) (body : Octets) (lanes : List Lane) (s : State),
    s.ctl.station = .run → (∀ L ∈ lanes, (s.forwarder L).egress ≠ .idle) → lanes.Nodup →
    Originates lanes (ownFrame k dst body s) s (originate k dst body lanes s)) ∧
  (∀ (dst : Nat) (body : Octets) (L : Lane) (s : State),
    s.ctl.station = .run → Settled s → (s.forwarder L).egress = .idle →
    EchoGranted L (ownFrame .echo dst body s) s (originate .echo dst body [L] s)) ∧
  (∀ (f : Octets) (now : Time), 21 ≤ f.length →
    let g := stamped f now
    let place : Option Nat := if oct f 0 = 3 then some 9 else if oct f 0 = 4 then some 17 else none
    g.length = f.length ∧ (∀ a, place = some a → rd32 g a = now) ∧
    ∀ i, (∀ a, place = some a → i < a ∨ a + 4 ≤ i) → oct g i = oct f i)

/-- R2, R3, R8, R183, R184 and section 11.2: an originated frame passes its own check, and every header field and the
body are read back from it; a forwarded copy passes its check, its hop count is one lower, and every other octet of header
and body is as received.  A frame passes its check exactly when it is as long as its header says and its last four
octets are the check sequence of those before them, which takes the bits as they are sent through a register of 32 ones
with the generator 0x04C11DB7 and is complemented.  It is malformed exactly when one of R3's conditions holds.  (The
length of a QRY-R with a status that is neither ACCEPTED nor REFUSED is the model's reading, log entry 16.) -/
def Obligations.FramesReadBack : Prop :=
  (∀ (k : FrameKind) (src dst : Nat) (seq : BitVec 16) (body : Octets),
    src < 64 → dst < 64 → body.length < 65536 →
    let f := withCheck (buildFrame k src dst seq body)
    checkPasses f = true ∧ f.length = body.length + 13 ∧ kindOf (oct f 0) = some k ∧ frameVersion f = 1 ∧
      frameSource f = src ∧ frameDest f = dst ∧ frameHop f = 63 ∧ frameSeq f = seq ∧ frameBody f = body) ∧
  (∀ f : Octets, checkPasses f = true → 1 ≤ frameHop f →
    checkPasses (forwardedCopy f) = true ∧ (forwardedCopy f).length = f.length ∧
      frameHop (forwardedCopy f) = frameHop f - 1 ∧
      ∀ i, i ≠ 4 → i < f.length - 4 → oct (forwardedCopy f) i = oct f i) ∧
  (∀ f : Octets, checkPasses f = true ↔ 13 ≤ f.length ∧ f.length = (rd16 f 7).toNat + 13 ∧
    rd32 f (f.length - 4) = checkSequence (f.take (f.length - 4))) ∧
  (∀ o : Octets, checkSequence o = ~~~((bitsSent o).foldl checkStep 0xFFFFFFFF)) ∧
  (∀ f : Octets, malformed f = true ↔ (oct f 0 = 0 ∨ 8 < (oct f 0).toNat) ∨ oct f 1 ≠ 1 ∨
    ((oct f 2).toNat % 64 = 0 ∨ (oct f 2).toNat % 64 = 63) ∨ (oct f 3).toNat % 64 = 0 ∨ 63 < (oct f 4).toNat ∨
    ¬LengthAgrees f)

/-- R16: a transmission completes what it has left after its grant; *frames sent* adds one, and the arbiter grants
the next frame by R14 from an egress that is IDLE.  The other lane's queues are as they were.  (That a completion offered
before its time brings station time forward to it is the model's choice, log entry 2.) -/
def Obligations.TransmissionCompletes : Prop :=
  ∀ (L : Lane) (s : State) (f : Octets), s.rstLow = false → (s.forwarder L).egress = .sending f →
    let s0 := s.elapse (s.clock.sendLeft.get L)
    let l := s.forwarder L
    let done : Forwarder := { l with egress := .idle, counts := { l.counts with framesSent := bump l.counts.framesSent } }
    ∃ t, exec (.transmissionCompletion L) s = .next t ∧
      (l.transit = [] → l.localQ = [] → t.forwarder L = done ∧ t.clock = s0.clock) ∧
      (∀ older g newer, l.localQ = older ++ g :: newer → (∀ x ∈ older, isUrgent x = false) → isUrgent g = true →
        t.forwarder L = { done with localQ := older ++ newer, egress := .sending (withCheck g) }) ∧
      (∀ g rest, (∀ x ∈ l.localQ, isUrgent x = false) → l.transit = g :: rest →
        t.forwarder L = { done with transit := rest, egress := .sending g } ∧
          t.clock.sendLeft.get L = g.length * 2) ∧
      (∀ g rest, (∀ x ∈ l.localQ, isUrgent x = false) → l.transit = [] → l.localQ = g :: rest →
        t.forwarder L = { done with localQ := rest, egress := .sending (withCheck (stamped g s0.now)) }) ∧
      t.forwarder L.other = s.forwarder L.other ∧ t.clock.time = s0.clock.time ∧
      Touches [.lanes, .clock, .peers, .ports, .changes, .tieBreak] s t

/-- R2 to R9, R15, R18, R22, R29, R38: a frame that fails its check is counted and dropped; an own frame other than a MARK,
and an own MARK that is malformed or arrives in LOAD or CLASH, is counted and stripped; neither changes anything but its
lane's counters.  A frame that is neither stripped nor delivered ends here when it is addressed to this station, counted
as hop expired at hop count 0; any other is forwarded while its hop count is 1 or more, and is dropped and counted at hop
count 0.  A MARK delivered in QUIET or RUN is counted, forwarded too when it is addressed to 63 with a hop left, and
restarts its source's age; one that states RUN reaches the first peer record of its source: the lane present, the hop
distance, the timer, the PEER-PRESENT entry of a peer absent on both lanes and of no other.  (Which of delivery and forwarding is taken
first is free, log entry 3; the entry comes before those of the presence report, log entry 20.)  A copy that is forwarded
joins the transit queue or is sent at once. -/
def Obligations.ArrivalDecided : Prop :=
  (∀ (L : Lane) (f : Octets) (s : State), s.rstLow = false → checkPasses f = false →
    let l := s.forwarder L
    ∃ t, exec (.frameArrival L f) s = .next t ∧
      t.forwarder L = { l with counts := { l.counts with
        framesReceived := bump l.counts.framesReceived, checkFailures := bump l.counts.checkFailures } } ∧
      t.forwarder L.other = s.forwarder L.other ∧ Touches [.lanes] s t) ∧
  (∀ (L : Lane) (f : Octets) (s : State), s.rstLow = false → checkPasses f = true →
    s.ctl.number = some (frameSource f) →
    oct f 0 ≠ 2 ∨ malformed f = true ∨ (s.ctl.station ≠ .quiet ∧ s.ctl.station ≠ .run) →
    let l := s.forwarder L
    ∃ t, exec (.frameArrival L f) s = .next t ∧
      t.forwarder L = { l with counts := { l.counts with
        framesReceived := bump l.counts.framesReceived
        malformed := if malformed f then bump l.counts.malformed else l.counts.malformed
        stripped := bump l.counts.stripped } } ∧
      t.forwarder L.other = s.forwarder L.other ∧ Touches [.lanes] s t) ∧
  (∀ (L : Lane) (f : Octets) (s : State), s.rstLow = false → Settled s → checkPasses f = true →
    s.ctl.number ≠ some (frameSource f) → s.ctl.number ≠ some (frameDest f) →
    (s.ctl.number = none ∨ frameDest f ≠ 63 ∨ malformed f = true ∨
      (s.ctl.station ≠ .quiet ∧ s.ctl.station ≠ .run)) →
    let l := s.forwarder L
    let counted : Forwarder := { l with counts := { l.counts with
      framesReceived := bump l.counts.framesReceived
      malformed := if malformed f then bump l.counts.malformed else l.counts.malformed } }
    ∃ t, exec (.frameArrival L f) s = .next t ∧
      (1 ≤ frameHop f → Forwarded (forwardedCopy f) counted (t.forwarder L) ∧ Touches [.lanes, .clock] s t ∧
        t.clock = { s.clock with sendLeft := t.clock.sendLeft } ∧
        t.clock.sendLeft.get L = (if l.egress = .idle then (forwardedCopy f).length * 2 else s.clock.sendLeft.get L) ∧
        t.clock.sendLeft.get L.other = s.clock.sendLeft.get L.other) ∧
      (frameHop f = 0 → t.forwarder L = { counted with counts := { counted.counts with
        hopExpired := bump l.counts.hopExpired } } ∧ Touches [.lanes] s t) ∧
      t.forwarder L.other = s.forwarder L.other) ∧
  (∀ (L : Lane) (f : Octets) (s : State) (n : Nat), s.rstLow = false → s.ctl.number = some n → checkPasses f = true →
    frameSource f ≠ n → frameDest f = n →
    malformed f = true ∨ (s.ctl.station ≠ .quiet ∧ s.ctl.station ≠ .run) →
    let l := s.forwarder L
    ∃ t, exec (.frameArrival L f) s = .next t ∧
      t.forwarder L = { l with counts := { l.counts with
        framesReceived := bump l.counts.framesReceived
        malformed := if malformed f then bump l.counts.malformed else l.counts.malformed
        hopExpired := if frameHop f = 0 then bump l.counts.hopExpired else l.counts.hopExpired } } ∧
      t.forwarder L.other = s.forwarder L.other ∧ Touches [.lanes] s t) ∧
  (∀ (L : Lane) (f : Octets) (s : State) (n : Nat), s.rstLow = false → Settled s → s.ctl.number = some n →
    s.ctl.station = .quiet ∨ s.ctl.station = .run → checkPasses f = true → malformed f = false →
    frameSource f ≠ n → frameDest f = n ∨ frameDest f = 63 → oct f 0 = 2 →
    let l := s.forwarder L
    let src := frameSource f
    let delivered : Forwarder := { l with counts := { l.counts with
      framesReceived := bump l.counts.framesReceived, framesDelivered := bump l.counts.framesDelivered } }
    ∃ t, exec (.frameArrival L f) s = .next t ∧
      (frameDest f ≠ n → 1 ≤ frameHop f → Forwarded (forwardedCopy f) delivered (t.forwarder L) ∧
        t.clock.sendLeft.get L = (if l.egress = .idle then (forwardedCopy f).length * 2 else s.clock.sendLeft.get L)) ∧
      (frameDest f = n ∨ frameHop f = 0 → t.forwarder L = delivered ∧ t.clock = s.clock) ∧
      t.forwarder L.other = s.forwarder L.other ∧ t.clock.sendLeft.get L.other = s.clock.sendLeft.get L.other ∧
      t.clock = { s.clock with sendLeft := t.clock.sendLeft } ∧
      t.dupEntry src = (s.dupEntry src).map (fun x => { x with age := s.after 2000000 }) ∧
      (∀ m, m ≠ src → t.dupEntry m = s.dupEntry m) ∧
      (oct (frameBody f) 4 ≠ 3 ∨ (∀ r ∈ s.peers, r.station ≠ src) → Touches [.lanes, .clock, .dup, .tieBreak] s t) ∧
      (oct (frameBody f) 4 = 3 → ∀ (i : Nat) (r : Peer), s.peers[i]? = some r → r.station = src →
        (∀ j < i, ∀ x, s.peers[j]? = some x → x.station ≠ src) →
        (∃ r', t.peers[i]? = some r' ∧ r'.station = r.station ∧ r'.circuits = r.circuits ∧ r'.commands = r.commands ∧
          r'.lanes.get L = { r.lanes.get L with
            present := true, hop := some (64 - frameHop f), presenceTimer := some (s.after 300000) } ∧
          r'.lanes.get L.other = r.lanes.get L.other) ∧
        (∀ j, j ≠ i → t.peers[j]? = s.peers[j]?) ∧
        ((r.lanes.get L).present = true → Touches [.lanes, .clock, .dup, .peers, .tieBreak] s t) ∧
        ((r.lanes.get L).present = false → (r.lanes.get L.other).present = false →
          EntryMade (.peerPresent i L) s t) ∧
        ((r.lanes.get L).present = false → (r.lanes.get L.other).present = true → NoPresenceEntry s t)) ∧
      Touches [.lanes, .clock, .dup, .peers, .ports, .changes, .tieBreak] s t) ∧
  (∀ (L : Lane) (copy : Octets) (s : State), Settled s →
    let t := joinTransit L copy s
    Forwarded copy (s.forwarder L) (t.forwarder L) ∧
    t.clock.sendLeft.get L = (if (s.forwarder L).egress = .idle then copy.length * 2 else s.clock.sendLeft.get L) ∧
    t.forwarder L.other = s.forwarder L.other ∧ t.clock.sendLeft.get L.other = s.clock.sendLeft.get L.other ∧
    t.clock = { s.clock with sendLeft := t.clock.sendLeft } ∧ Touches [.lanes, .clock] s t)

/-! ### Chapter 2: acceptance, duplicates, marks and peers -/

/-- R27, R28: the judgement of a sequence at a valid entry, by its distance from the front; the positions after an
acceptance; and a sequence once accepted is a duplicate at the entry that accepted it.  At an invalid entry the first copy
is accepted whatever its sequence, which becomes the front, with position 0 set and every other clear. -/
def Obligations.WindowTable : Prop :=
  (∀ seq : BitVec 16, ∃ w, judgeSequence none seq = .accepted seq w ∧ ∀ i < 64, w.getLsbD i = decide (i = 0)) ∧
  ∀ (e : DupEntry) (seq : BitVec 16),
    let d := (e.front - seq).toNat
    let v := judgeSequence (some e) seq
    (d ≤ 63 → e.window.getLsbD d = true → v = .duplicate) ∧
    (d ≤ 63 → e.window.getLsbD d = false → ∃ w, v = .accepted e.front w ∧
      ∀ i < 64, w.getLsbD i = (e.window.getLsbD i || decide (i = d))) ∧
    (64 ≤ d → d ≤ 32768 → v = .stale) ∧
    (32769 ≤ d → ∃ w, v = .accepted seq w ∧
      ∀ i < 64, w.getLsbD i = (decide (i = 0) || (decide (65536 - d ≤ i) && e.window.getLsbD (i - (65536 - d))))) ∧
    (∀ front w age, v = .accepted front w → judgeSequence (some ⟨front, w, age⟩) seq = .duplicate)

/-- R6, R7, R22 to R25, R28 to R30, R90, R103, R156: a frame delivered in QUIET or RUN.  Unless it is a MARK or the lane
filter drops it, it meets its source's window: a duplicate and a stale copy are counted and discarded; an accepted copy
is remembered (a RESTART query clears the table afterwards, R26), in QUIET without further effect, and in RUN goes to the
unit of its kind, a QRY to the row of its kind code; every copy restarts the age of its source's valid entry.  In RUN the
lane filter drops a TRIB of an enabled circuit with that far station and far port that is pinned to the other lane:
*other-lane cells* adds one, the tally is marked, and the copy does not reach the window.  A frame addressed to 63 with a
hop left is forwarded as well, before or after (log entry 3). -/
def Obligations.DeliveryFilter : Prop :=
  (∀ (L : Lane) (f : Octets) (s : State) (n : Nat), s.rstLow = false → s.ctl.number = some n →
    s.ctl.station = .quiet ∨ s.ctl.station = .run → checkPasses f = true → malformed f = false →
    frameSource f ≠ n → frameDest f = n → oct f 0 ≠ 2 → ¬LaneDrops L f s →
    let l := s.forwarder L
    let e := s.dupEntry (frameSource f)
    let delivered : Forwarder := { l with counts := { l.counts with
      framesReceived := bump l.counts.framesReceived, framesDelivered := bump l.counts.framesDelivered } }
    let discards (stats : StationCounters) (t : State) : Prop :=
      t.stats = stats ∧ t.dupEntry (frameSource f) = e.map (fun x => { x with age := s.after 2000000 }) ∧
      t.forwarder L = delivered ∧ t.forwarder L.other = s.forwarder L.other ∧ Touches [.lanes, .dup, .stats] s t
    ∃ t, exec (.frameArrival L f) s = .next t ∧
      (judgeSequence e (frameSeq f) = .duplicate →
        discards { s.stats with duplicateDiscards := bump s.stats.duplicateDiscards } t) ∧
      (judgeSequence e (frameSeq f) = .stale →
        discards { s.stats with staleDiscards := bump s.stats.staleDiscards } t) ∧
      (∀ front w, judgeSequence e (frameSeq f) = .accepted front w →
        ((oct f 0 = 7 → oct (frameBody f) 0 ≠ 10) → t.dupEntry (frameSource f) = some ⟨front, w, s.after 2000000⟩) ∧
        (s.ctl.station = .quiet → t.forwarder L = delivered ∧ t.forwarder L.other = s.forwarder L.other ∧
          Touches [.lanes, .dup] s t))) ∧
  (∀ (L : Lane) (f : Octets) (s : State) (n : Nat) (p : Fin 8), s.rstLow = false → s.ctl.number = some n →
    s.ctl.station = .run → checkPasses f = true → malformed f = false → frameSource f ≠ n → frameDest f = n →
    oct f 0 = 1 → p = tribDestPort (frameBody f) → (s.port p).enabled = true →
    frameSource f = recFarStation (s.setting p) → tribSourcePort (frameBody f) = recFarPort (s.setting p) →
    (s.port p).circuit.current = some L.other →
    let l := s.forwarder L
    ∃ t, exec (.frameArrival L f) s = .next t ∧
      t.port p = { s.port p with
        counts := { (s.port p).counts with otherLaneCells := bump (s.port p).counts.otherLaneCells }
        circuit := { (s.port p).circuit with tally := { (s.port p).circuit.tally with otherMark := true } } } ∧
      OtherPortsSame p s t ∧
      t.dupEntry (frameSource f) = (s.dupEntry (frameSource f)).map (fun x => { x with age := s.after 2000000 }) ∧
      t.forwarder L = { l with counts := { l.counts with
        framesReceived := bump l.counts.framesReceived, framesDelivered := bump l.counts.framesDelivered } } ∧
      t.forwarder L.other = s.forwarder L.other ∧ Touches [.lanes, .dup, .ports] s t) ∧
  (∀ (L : Lane) (f : Octets) (s : State) (n : Nat), s.rstLow = false → s.ctl.number = some n →
    s.ctl.station = .quiet ∨ s.ctl.station = .run → checkPasses f = true → malformed f = false →
    frameSource f ≠ n → frameDest f = n ∨ frameDest f = 63 →
    ∃ (t : State) (choices : List Nat), exec (.frameArrival L f) s = .next t ∧
      let received : State :=
        { s.countLane L (fun c => { c with framesReceived := bump c.framesReceived }) with tieBreak := choices }
      (frameDest f = n ∨ frameHop f = 0 → choices = s.tieBreak ∧ Delivered L f received t) ∧
      (frameDest f ≠ n → 1 ≤ frameHop f →
        (∃ m, Delivered L f received m ∧ t = joinTransit L (forwardedCopy f) m) ∨
          Delivered L f (joinTransit L (forwardedCopy f) received) t))

/-- R5, R31, R32: in RUN, at the end of the 10 ms period, a MARK to 63 with the instance value and the code of RUN is
originated on both lanes, and the next one falls 10 ms later.  A well-formed own MARK that returns with the
station's own instance value, in RUN, restarts its lane's return timer, sets the ring size and closes an OPEN lane
with its entry; in QUIET it leaves nothing but the lane counters. -/
def Obligations.OwnMarks : Prop :=
  (∀ (s : State) (u : Time), s.rstLow = false → s.ctl.station = .run → Settled s → s.markTimer = some u →
    expired s.now u = true →
    ∃ t, exec .markPeriodExpiry s = .next t ∧
      Originates [.A, .B] (ownFrame .mark 63 (be32 s.image.instanceValue ++ [3]) s)
        { s with markTimer := some (u + 100000) } t) ∧
  (∀ (L : Lane) (f : Octets) (s : State), s.rstLow = false → checkPasses f = true → malformed f = false →
    s.ctl.number = some (frameSource f) → s.ctl.station = .run ∨ s.ctl.station = .quiet → oct f 0 = 2 →
    rd32 (frameBody f) 0 = s.image.instanceValue →
    let l := s.forwarder L
    ∃ t, exec (.frameArrival L f) s = .next t ∧
      t.forwarder L = { l with counts := { l.counts with
        framesReceived := bump l.counts.framesReceived, stripped := bump l.counts.stripped } } ∧
      t.forwarder L.other = s.forwarder L.other ∧
      (s.ctl.station = .run →
        t.mark L = ⟨.closed, some (64 - frameHop f), some (s.after 300000)⟩ ∧ t.mark L.other = s.mark L.other ∧
        t.changes = (if (s.mark L).state = .opened then
          withEntry s.now (.laneClosed L (64 - frameHop f)) s.changes else s.changes) ∧
        Touches [.lanes, .marks, .changes] s t) ∧
      (s.ctl.station = .quiet → Touches [.lanes] s t))

/-- R5, R21, R35, R46, R102, R113, R154, R177: a well-formed own MARK with a foreign instance value, in QUIET or
RUN: the CLASH entry comes first, the station is in CLASH, local queues are empty, every circuit that is not OFF is
in WAIT with its loop cleared and holds over at the rate last reached, every assembler is stopped and every COk is
released; transit queues, lane states, duplicate entries, peers and the image stand. -/
def Obligations.ForeignMarkClashes : Prop :=
  ∀ (L : Lane) (f : Octets) (s : State), s.rstLow = false → checkPasses f = true → malformed f = false →
    s.ctl.number = some (frameSource f) → s.ctl.station = .quiet ∨ s.ctl.station = .run → oct f 0 = 2 →
    rd32 (frameBody f) 0 ≠ s.image.instanceValue →
    ∃ t, exec (.frameArrival L f) s = .next t ∧
      t.ctl = { s.ctl with station := .clash, quiet := none } ∧
      EntryMade (.clash L (rd32 (frameBody f) 0)) s t ∧
      (∀ M : Lane, (t.forwarder M).localQ = [] ∧ (t.forwarder M).transit = (s.forwarder M).transit ∧
        (t.forwarder M).egress = (s.forwarder M).egress) ∧
      (∀ p : Fin 8, (s.port p).enabled = true →
        (t.port p).circuit.state = .wait ∧ (t.port p).circuit.loop = .none ∧ (t.port p).circuit.revert = none ∧
        (t.port p).circuit.current = (s.port p).circuit.current ∧ (t.port p).asm.running = false ∧
        (t.port p).asm.cell = none ∧ (t.port p).counts = (s.port p).counts ∧
        ((s.port p).circuit.state ≠ .wait → (t.port p).engine.position = none ∧ (t.port p).engine.fill = 0) ∧
        (t.port p).tx = (s.port p).tx ∧ (t.port p).rx = (s.port p).rx ∧
        (t.port p).clk = (if (s.port p).circuit.state = .play then
          { (s.port p).clk with held := (s.port p).clk.integrator } else (s.port p).clk)) ∧
      (∀ p : Fin 8, (s.port p).enabled = false → t.port p = s.port p) ∧
      (∀ k : Fin 4, (t.cmd k).co = false ∧ (t.cmd k).qualified = (s.cmd k).qualified ∧
        (t.cmd k).qualTimer = (s.cmd k).qualTimer ∧
        (t.cmd k).outgoing = (s.cmd k).outgoing.map (fun o => ⟨.idle, o.activation, .none, none, 0, none, none⟩) ∧
        (t.cmd k).incoming = (s.cmd k).incoming.map (fun _ => ⟨.idle, none, none, none, none, none, none, none⟩)) ∧
      Touches [.ctl, .lanes, .markTimer, .echoTimer, .ports, .cmds, .changes, .tieBreak] s t

/-- R38, R40: a peer's MARK that states RUN makes its lane present, sets the hop distance and restarts the presence
timer; a peer absent on both lanes makes a PEER-PRESENT entry, and one present on the other lane none; a lane that was
absent is reported to every port of the peer's circuit role; a lane already present changes nothing else.  (That
the entry comes before those of the presence report is the model's reading, log entry 20; how a MARK's arrival comes
here is stated with the arrivals of chapter 1.) -/
def Obligations.PeerMarkHeard : Prop :=
  ∀ (i : Nat) (L : Lane) (hop : Nat) (s : State) (r : Peer), s.peers[i]? = some r →
    let t := peerMark i L hop s
    (∃ r', t.peers[i]? = some r' ∧ r'.station = r.station ∧ r'.circuits = r.circuits ∧ r'.commands = r.commands ∧
      r'.lanes.get L = { r.lanes.get L with
        present := true, hop := some (64 - hop), presenceTimer := some (s.after 300000) } ∧
      r'.lanes.get L.other = r.lanes.get L.other) ∧
    (∀ j, j ≠ i → t.peers[j]? = s.peers[j]?) ∧
    ((r.lanes.get L).present = true → Touches [.peers] s t) ∧
    ((r.lanes.get L).present = false → (r.lanes.get L.other).present = false → EntryMade (.peerPresent i L) s t) ∧
    ((r.lanes.get L).present = false → (r.lanes.get L.other).present = true → NoPresenceEntry s t) ∧
    ((r.lanes.get L).present = false → ∃ order choices, RoleOrder r order ∧
      t = order.foldl (fun x p => presenceReport L true p x) { withPart i L r { r.lanes.get L with
        present := true, hop := some (64 - hop), presenceTimer := some (s.after 300000) } s with
        tieBreak := choices
        changes := if (r.lanes.get L.other).present then s.changes
          else withEntry s.now (.peerPresent i L) s.changes }) ∧
    Touches [.peers, .ports, .changes, .tieBreak] s t

/-- R29, R33, R39, R40: the timers of chapter 2, each run down to its station time: the return timer opens its lane, the
age timer makes its entry invalid, and the presence timer makes its lane absent, with a PEER-ABSENT entry when the
other lane is absent as well and none when it is present; a lane that was present is reported to every port of the
peer's circuit role.  (That the entry comes before those of the presence report is the model's reading, log
entry 20.) -/
def Obligations.RingTimersExpire : Prop :=
  (∀ (L : Lane) (s : State) (u : Time), s.rstLow = false → (s.mark L).returnTimer = some u →
    expired s.now u = true →
    ∃ t, exec (.returnTimerExpiry L) s = .next t ∧ t.mark L = ⟨.opened, none, none⟩ ∧
      t.mark L.other = s.mark L.other ∧ t.changes = withEntry s.now (.laneOpen L) s.changes ∧
      Touches [.marks, .changes] s t) ∧
  (∀ (st : BitVec 6) (s : State) (e : DupEntry), s.rstLow = false → s.dupEntry st.toNat = some e →
    expired s.now e.age = true →
    ∃ t, exec (.duplicateEntryExpiry st) s = .next t ∧ t.dupEntry st.toNat = none ∧
      (∀ n, n ≠ st.toNat → t.dupEntry n = s.dupEntry n) ∧ Touches [.dup] s t) ∧
  (∀ (i : Fin 12) (L : Lane) (s : State) (r : Peer) (u : Time), s.rstLow = false → s.peers[i.val]? = some r →
    (r.lanes.get L).presenceTimer = some u → expired s.now u = true →
    ∃ t, exec (.presenceTimerExpiry i L) s = .next t ∧
      (∃ r', t.peers[i.val]? = some r' ∧ r'.station = r.station ∧ r'.circuits = r.circuits ∧
        r'.commands = r.commands ∧
        r'.lanes.get L = { r.lanes.get L with present := false, hop := none, presenceTimer := none } ∧
        r'.lanes.get L.other = r.lanes.get L.other) ∧
      (∀ j, j ≠ i.val → t.peers[j]? = s.peers[j]?) ∧
      ((r.lanes.get L.other).present = false → EntryMade (.peerAbsent i.val) s t) ∧
      ((r.lanes.get L.other).present = true → NoPresenceEntry s t) ∧
      ((r.lanes.get L).present = true → ∃ order choices, RoleOrder r order ∧
        t = order.foldl (fun x p => presenceReport L false p x) { withPart i.val L r { r.lanes.get L with
          present := false, hop := none, presenceTimer := none } s with
          tieBreak := choices
          changes := if (r.lanes.get L.other).present then s.changes
            else withEntry s.now (.peerAbsent i.val) s.changes }) ∧
      Touches [.peers, .ports, .changes, .tieBreak] s t)

/-! ### Chapter 3: tributary ports -/

/-- R43 to R45, R47, R50 to R55 and section 11.3: an octet of a PRESENT line joins the line-timed cell and restarts the silence timer; the
Nth completes the cell with the next count, SRC-LOST clear, and hands it to the ring as a TRIB on both lanes, or
under local loop to the port's own playout engine; an empty line-timed cell takes its place.  The first octet of a
LOST line regains it: the station-timed cell is completed with N all-ones octets, SRC-LOST, and goes the same way, and
the octet begins a line-timed cell.  A port whose assembler builds nothing only becomes or stays PRESENT.  While LOSk is
asserted no octet is received.  The body of a TRIB holds the far port, this port, the class, the flag, the sender lane
mode, the count and the cell. -/
def Obligations.OctetReceived : Prop :=
  (∀ (p : Fin 8) (o : Byte) (s : State) (held : Octets), s.rstLow = false → (s.port p).rx.los = false →
    (s.port p).rx.line = .present → (s.port p).asm.cell = some (.line held) →
    let q := s.port p
    let r := s.setting p
    let rx : Receiver := { q.rx with gathered := [], silence := some (s.after 20000) }
    let s1 := s.modPort p fun q => { q with
      rx := rx
      asm := { q.asm with cell := some (.line []), nextCount := q.asm.nextCount + 1 }
      counts := { q.counts with cellsAssembled := bump q.counts.cellsAssembled } }
    ∃ t, exec (.octetReceived p o) s = .next t ∧
      (held.length + 1 < recN r →
        t.port p = { q with rx := rx, asm := { q.asm with cell := some (.line (held ++ [o])) } } ∧
        OtherPortsSame p s t ∧ Touches [.ports] s t) ∧
      (held.length + 1 = recN r → s.ctl.station = .run → Settled s → q.circuit.loop ≠ .loc →
        Originates [.A, .B] (ownFrame .trib (recFarStation r)
          (tribBody (recFarPort r) p.val (recClass r) false q.circuit.current q.asm.nextCount (held ++ [o])) s) s1 t) ∧
      (held.length + 1 = recN r → q.circuit.loop = .loc →
        t = acceptCell p ⟨q.asm.nextCount, held ++ [o], false, none⟩ s1)) ∧
  (∀ (p : Fin 8) (o : Byte) (s : State), s.rstLow = false → (s.port p).rx.los = false → (s.port p).rx.line = .lost →
    let q := s.port p
    let r := s.setting p
    let rx : Receiver := { q.rx with gathered := [], line := .present, silence := some (s.after 20000) }
    let s1 := s.modPort p fun q => { q with
      rx := rx
      asm := { q.asm with cell := some (.line [o]), nextCount := q.asm.nextCount + 1 }
      counts := { q.counts with
        cellsAssembled := bump q.counts.cellsAssembled, srcLostCells := bump q.counts.srcLostCells } }
    ∃ t, exec (.octetReceived p o) s = .next t ∧
      (q.asm.cell = none → t.port p = { q with rx := rx } ∧ OtherPortsSame p s t ∧ Touches [.ports] s t) ∧
      (∀ u, q.asm.cell = some (.station u) → s.ctl.station = .run → Settled s → q.circuit.loop ≠ .loc →
        Originates [.A, .B] (ownFrame .trib (recFarStation r)
          (tribBody (recFarPort r) p.val (recClass r) true q.circuit.current q.asm.nextCount
            (List.replicate (recN r) 0xFF)) s) s1 t) ∧
      (∀ u, q.asm.cell = some (.station u) → q.circuit.loop = .loc →
        t = acceptCell p ⟨q.asm.nextCount, List.replicate (recN r) 0xFF, true, none⟩ s1)) ∧
  (∀ (p : Fin 8) (o : Byte) (s : State), s.rstLow = false → (s.port p).rx.los = false →
    (s.port p).rx.line = .present → (s.port p).asm.cell = none →
    ∃ t, exec (.octetReceived p o) s = .next t ∧
      t.port p = { s.port p with rx := { (s.port p).rx with gathered := [], silence := some (s.after 20000) } } ∧
      OtherPortsSame p s t ∧ Touches [.ports] s t) ∧
  (∀ (p : Fin 8) (o : Byte) (s : State), (s.port p).rx.los = true → exec (.octetReceived p o) s = .next s) ∧
  (∀ (destPort srcPort : Nat) (cls : RateClass) (srcLost : Bool) (mode : Option Lane) (count : BitVec 16)
    (cell : Octets), IsTribBody destPort srcPort cls srcLost mode count cell
      (tribBody destPort srcPort cls srcLost mode count cell))

/-- R43, R44, R48, R49, R51, R54, R55: the loss of a PRESENT line, by LOSk or by the silence timer: the octets held are padded
with all-ones to N and sent as a SRC-LOST cell, and a station-timed cell begins that completes 10,000 ticks later;
an empty cell only becomes station-timed.  A station-timed cell completes at its time with N all-ones octets,
SRC-LOST, and the next begins with completion time 10,000 ticks later.  Under local loop a completed cell is handed to
the port's own playout engine instead.  LOSk asserted on a line already LOST discards the bits gathered and nothing
else. -/
def Obligations.LossAndStationTiming : Prop :=
  (∀ (p : Fin 8) (s : State), s.rstLow = false → (s.port p).rx.line = .present →
    let q := s.port p
    let r := s.setting p
    let next : CellTiming := .station (s.after 10000)
    let lineLosses := if q.enabled then bump q.counts.lineLosses else q.counts.lineLosses
    ∀ (c : Instr) (rx : Receiver),
      (c = .losAsserted p ∧ rx = ⟨[], true, .lost, none⟩) ∨
        ((∃ u, q.rx.silence = some u ∧ expired s.now u = true) ∧ c = .silenceTimerExpiry p ∧
          rx = { q.rx with line := .lost, silence := none }) →
      ∃ t, exec c s = .next t ∧
        (q.asm.cell = none →
          t.port p = { q with rx := rx, counts := { q.counts with lineLosses := lineLosses } } ∧
          OtherPortsSame p s t ∧ Touches [.ports] s t) ∧
        (q.asm.cell = some (.line []) →
          t.port p = { q with rx := rx, counts := { q.counts with lineLosses := lineLosses },
                              asm := { q.asm with cell := some next } } ∧
          OtherPortsSame p s t ∧ Touches [.ports] s t) ∧
        (∀ held, held ≠ [] → q.asm.cell = some (.line held) →
          let cell := held ++ List.replicate (recN r - held.length) 0xFF
          let s1 := s.modPort p fun q => { q with
            rx := rx
            asm := { q.asm with cell := some next, nextCount := q.asm.nextCount + 1 }
            counts := { q.counts with
              lineLosses := lineLosses
              cellsAssembled := bump q.counts.cellsAssembled, srcLostCells := bump q.counts.srcLostCells } }
          (s.ctl.station = .run → Settled s → q.circuit.loop ≠ .loc →
            Originates [.A, .B] (ownFrame .trib (recFarStation r)
              (tribBody (recFarPort r) p.val (recClass r) true q.circuit.current q.asm.nextCount cell) s) s1 t) ∧
          (q.circuit.loop = .loc → t = acceptCell p ⟨q.asm.nextCount, cell, true, none⟩ s1))) ∧
  (∀ (p : Fin 8) (s : State) (u : Time), s.rstLow = false → (s.port p).asm.cell = some (.station u) →
    expired s.now u = true →
    let q := s.port p
    let r := s.setting p
    let cell : Octets := List.replicate (recN r) 0xFF
    let s1 := s.modPort p fun q => { q with
      asm := { q.asm with cell := some (.station (s.after 10000)), nextCount := q.asm.nextCount + 1 }
      counts := { q.counts with
        cellsAssembled := bump q.counts.cellsAssembled, srcLostCells := bump q.counts.srcLostCells } }
    ∃ t, exec (.stationCellCompletion p) s = .next t ∧
      (s.ctl.station = .run → Settled s → q.circuit.loop ≠ .loc →
        Originates [.A, .B] (ownFrame .trib (recFarStation r)
          (tribBody (recFarPort r) p.val (recClass r) true q.circuit.current q.asm.nextCount cell) s) s1 t) ∧
      (q.circuit.loop = .loc → t = acceptCell p ⟨q.asm.nextCount, cell, true, none⟩ s1)) ∧
  (∀ (p : Fin 8) (s : State), (s.port p).rx.line = .lost →
    ∃ t, exec (.losAsserted p) s = .next t ∧
      t.port p = { s.port p with rx := { (s.port p).rx with los := true, gathered := [] } } ∧
      OtherPortsSame p s t ∧ Touches [.ports] s t)

/-- R43, R45, R59: a sampled bit is gathered, the eighth makes an octet whose most significant bit was gathered first,
and no bit is gathered while LOSk is asserted; every bit is the one a line loop repeats.  LOSk's deassertion begins
gathering afresh and leaves the line state. -/
def Obligations.BitsAreGathered : Prop :=
  (∀ (p : Fin 8) (b : Bool) (s : State), s.rstLow = false →
    let q := s.port p
    let s1 := s.modPort p fun q => { q with tx := { q.tx with repeatBit := b } }
    ∃ t, exec (.bitSampled p b) s = .next t ∧
      (q.rx.los = true → t = s1) ∧
      (q.rx.los = false → q.rx.gathered.length < 7 →
        t = s1.modPort p fun q => { q with rx := { q.rx with gathered := q.rx.gathered ++ [b] } }) ∧
      (q.rx.los = false → q.rx.gathered.length = 7 →
        ∃ o : Byte, (∀ i : Fin 8, o.getMsbD i.val = (q.rx.gathered ++ [b]).getD i.val false) ∧
          exec (.octetReceived p o) s1 = .next t)) ∧
  (∀ (p : Fin 8) (s : State),
    ∃ t, exec (.losDeasserted p) s = .next t ∧
      t.port p = { s.port p with rx := { (s.port p).rx with los := false, gathered := [] } } ∧
      OtherPortsSame p s t ∧ Touches [.ports] s t)

/-- R57, R58, R59: at a falling edge of TXCk an enabled port drives the next bit of the oldest octet of its store, most
significant first, the octet leaving with its last bit, or a one when the store is empty; a port in line loop drives
the bit last sampled; a disabled port drives a one; one bit is taken off the phase of the port's own clock (a phase that
stands still in line loop is the model's way with TXCk, log entry 8).  R70, R111,
R171: as time passes station time, the interval, the frames being sent and the transmit phases move on, and in an interval
of 250,000 quanta a phase gains 8 × N × (1 + C × 10^−9) bits.  A command of a running timer that comes before its time
waits for it (log entry 2).  A step on an empty queue does nothing in cold reset; else it takes a timed event whose time
has come, within half the span of station time (log entry 18), and with none lets 4 ns pass (log entry 1; which of
several is free, log entry 3). -/
def Obligations.TransmitEdge : Prop :=
  (∀ (p : Fin 8) (s : State), s.rstLow = false → s.txRate p = 0 ∨ Config.txBit ≤ s.clock.txPhase[p] →
    let q := s.port p
    ∃ t, exec (.txcFallingEdge p) s = .next t ∧
      (q.enabled = false → t.port p = { q with tx := { q.tx with txd := true } }) ∧
      (q.enabled = true → q.circuit.loop = .line → t.port p = { q with tx := { q.tx with txd := q.tx.repeatBit } }) ∧
      (q.enabled = true → q.circuit.loop ≠ .line → q.tx.store = [] →
        t.port p = { q with tx := { q.tx with txd := true } }) ∧
      (∀ o rest, q.enabled = true → q.circuit.loop ≠ .line → q.tx.store = o :: rest →
        (q.tx.sentBits < 7 →
          t.port p = { q with tx := { q.tx with sentBits := q.tx.sentBits + 1, txd := o.getMsbD q.tx.sentBits } }) ∧
        (q.tx.sentBits = 7 →
          t.port p = { q with tx := { q.tx with store := rest, sentBits := 0, txd := o.getLsbD 0 } })) ∧
      OtherPortsSame p s t ∧ t.clock = { s.clock with txPhase := t.clock.txPhase } ∧ Touches [.clock, .ports] s t ∧
      (s.txRate p = 0 → t.clock = s.clock) ∧
      (s.txRate p ≠ 0 → t.clock.txPhase[p] = s.clock.txPhase[p] - Config.txBit ∧
        ∀ q : Fin 8, q ≠ p → t.clock.txPhase[q] = s.clock.txPhase[q])) ∧
  (∀ (s : State) (quanta : Nat),
    let t := s.elapse quanta
    let ticks := (s.clock.subTick + quanta) / 25
    t.now = s.now + BitVec.ofNat 32 ticks ∧ t.clock.subTick = (s.clock.subTick + quanta) % 25 ∧
    t.clock.interval = s.clock.interval + ticks ∧
    (∀ L : Lane, t.clock.sendLeft.get L = s.clock.sendLeft.get L - quanta) ∧
    (∀ p : Fin 8, t.clock.txPhase[p] = s.clock.txPhase[p] + quanta * phaseRate p s ∧ phaseRate p s = s.txRate p) ∧
    Touches [.clock] s t) ∧
  (∀ (s : State) (p : Fin 8), s.closed = true → (s.port p).enabled = true → (s.port p).circuit.loop ≠ .line →
    0 ≤ 1000000000 + (s.port p).clk.applied →
    (((s.elapse 250000).clock.txPhase[p] : Int) - s.clock.txPhase[p]) * 1000000000 =
      8 * recN (s.setting p) * (1000000000 + (s.port p).clk.applied) * Config.txBit) ∧
  (∀ (s : State) (c : Instr) (u : Time), s.rstLow = false → s.clock.subTick < 25 → expired s.now u = false →
    (s.reach u).now = u ∧ (s.reach u).clock.interval = s.clock.interval + (u - s.now).toNat ∧
    Touches [.clock] s (s.reach u) ∧ (RunsTo s c u → exec c s = exec c (s.reach u))) ∧
  (∀ s : State, s.pending = [] →
    (s.rstLow = true → step s = .next s) ∧
    (s.rstLow = false → (∀ c, ¬FallsDue s c) → step s = .next (s.elapse 1)) ∧
    (s.rstLow = false → (∃ c, FallsDue s c) →
      ∃ (c : Instr) (choices : List Nat), FallsDue s c ∧ step s = exec c { s with tieBreak := choices }))

/-! ### Chapter 4: the playout buffer -/

/-- R70, R90, R106: at the interval event each circuit that is not OFF takes its own event, whatever the order among the
circuits: its playout engine and clock loop act, and then its switch tally closes the period (in this order by log
entry 9); every other port is as it was.  (The interval time has come: no time passes at this event.) -/
def Obligations.IntervalActsPerPort : Prop :=
  ∀ s : State, s.rstLow = false → 10000 ≤ s.clock.interval →
    let s0 := { s with clock := { s.clock with interval := s.clock.interval - 10000 } }
    ∃ t, exec .intervalEvent s = .next t ∧
      (∀ p : Fin 8, (s.port p).enabled = true → t.port p = (closeTally p (engineInterval p s0)).port p) ∧
      (∀ p : Fin 8, (s.port p).enabled = false → t.port p = s.port p) ∧
      t.clock = s0.clock ∧ Touches [.clock, .ports, .changes, .tieBreak] s t

/-- R57, R59, R70 to R78, R84 to R88, R105 to R114: the interval event of a circuit.  In WAIT, FLUSH and PREFILL it sends
n fill octets to the transmit store, which keeps 2N, or discards them in line loop, and the clock loop holds over.  In
FLUSH the flush count rises, and at the flush setting the circuit goes to PREFILL with its entry.  In PREFILL below the
target the idle run counts the interval events since the last stored cell, and at the starvation limit the circuit goes
to WAIT with its entry.  In PREFILL with the target measured or more and the anchor's cell held, the circuit enters PLAY
with its entry, takes n octets from the anchor at once, and steers on what is left from an integrator that starts at the
held correction, which is kept.  In PLAY it takes n octets one after another, counts a starved run when none came from
a held cell, measures what is left and steers on it; at the starvation limit it goes to WAIT with its entry, saves the
integrator and holds over. -/
def Obligations.IntervalByState : Prop :=
  (∀ (p : Fin 8) (s : State), (s.port p).circuit.state = .wait → (s.port p).engine.position = none →
    let q := s.port p
    let r := s.setting p
    let t := engineInterval p s
    (t.port p).tx = withOctets r q (List.replicate q.clk.next (recFillOctet r)) ∧
    (t.port p).engine = { q.engine with fill := 0, stored := false } ∧ HeldOver (recN r) q.clk (t.port p).clk ∧
    (t.port p).circuit = q.circuit ∧ (t.port p).counts = q.counts ∧ (t.port p).rx = q.rx ∧ (t.port p).asm = q.asm ∧
    OtherPortsSame p s t ∧ Touches [.ports] s t) ∧
  (∀ (p : Fin 8) (s : State), (s.port p).circuit.state = .flush → (s.port p).engine.position = none →
    let q := s.port p
    let r := s.setting p
    let t := engineInterval p s
    (t.port p).tx = withOctets r q (List.replicate q.clk.next (recFillOctet r)) ∧
    (t.port p).engine = { q.engine with fill := 0, stored := false } ∧ HeldOver (recN r) q.clk (t.port p).clk ∧
    (t.port p).counts = q.counts ∧ (t.port p).rx = q.rx ∧ (t.port p).asm = q.asm ∧ OtherPortsSame p s t ∧
    (q.circuit.flushCount + 1 < recFlush r →
      (t.port p).circuit = { q.circuit with flushCount := q.circuit.flushCount + 1 } ∧ Touches [.ports] s t) ∧
    (recFlush r ≤ q.circuit.flushCount + 1 →
      (t.port p).circuit = { q.circuit with state := .prefill, flushCount := 0 } ∧
      t.changes = withEntry s.now (.circuitState p .prefill) s.changes ∧ Touches [.ports, .changes] s t)) ∧
  (∀ (p : Fin 8) (s : State), (s.port p).circuit.state = .prefill →
    (s.port p).engine.measure (recN (s.setting p)) < recTargetFill (s.setting p) →
    let q := s.port p
    let r := s.setting p
    let t := engineInterval p s
    let idle := if q.engine.stored = true then 0 else q.engine.idleRun + 1
    (t.port p).tx = withOctets r q (List.replicate q.clk.next (recFillOctet r)) ∧
    HeldOver (recN r) q.clk (t.port p).clk ∧
    (t.port p).counts = q.counts ∧ (t.port p).rx = q.rx ∧ (t.port p).asm = q.asm ∧ OtherPortsSame p s t ∧
    (idle < recStarvation r →
      (t.port p).engine = { q.engine with fill := q.engine.measure (recN r), idleRun := idle, stored := false } ∧
      (t.port p).circuit = q.circuit ∧ Touches [.ports] s t) ∧
    (recStarvation r ≤ idle →
      (t.port p).engine = ⟨Vector.replicate 16 none, none, 0, 0, 0, false⟩ ∧
      (t.port p).circuit = { q.circuit with state := .wait, flushCount := 0 } ∧
      t.changes = withEntry s.now (.circuitState p .wait) s.changes ∧ Touches [.ports, .changes] s t)) ∧
  (∀ (p : Fin 8) (s : State) (pos : Position) (h : HeldCell), (s.port p).circuit.state = .prefill →
    (s.port p).engine.position = some pos → (s.port p).engine.cellOf pos.count = some h → 1 ≤ (s.port p).clk.next →
    1 ≤ recStarvation (s.setting p) →
    recTargetFill (s.setting p) ≤ (s.port p).engine.measure (recN (s.setting p)) →
    let q := s.port p
    let r := s.setting p
    let taken := takeOctets r q.clk.next ⟨q.engine, q.counts, [], false⟩
    let fill := taken.engine.measure (recN r)
    let t := engineInterval p s
    taken.octets.length = q.clk.next ∧ taken.fromCell = true ∧
    t.port p = { q with
      tx := withOctets r q taken.octets
      engine := { taken.engine with starvedRun := 0, fill := fill, stored := false }
      counts := taken.counts
      circuit := { q.circuit with state := .play }
      clk := steer s.image r fill { q.clk with integrator := q.clk.held } } ∧
    (t.port p).clk.held = q.clk.held ∧
    (t.port p).clk.integrator = clampPpb (q.clk.held + steerTerm s.image r fill) ∧
    (t.port p).clk.applied = clampPpb ((t.port p).clk.integrator + 8 * steerTerm s.image r fill) ∧
    t.changes = withEntry s.now (.circuitState p .play) s.changes ∧
    OtherPortsSame p s t ∧ Touches [.ports, .changes] s t) ∧
  (∀ (p : Fin 8) (s : State), (s.port p).circuit.state = .play →
    let q := s.port p
    let r := s.setting p
    let taken := takeOctets r q.clk.next ⟨q.engine, q.counts, [], false⟩
    let fill := taken.engine.measure (recN r)
    let starved := if taken.fromCell then 0 else q.engine.starvedRun + 1
    let t := engineInterval p s
    taken.octets.length = q.clk.next ∧ (t.port p).tx = withOctets r q taken.octets ∧ (t.port p).rx = q.rx ∧
    (t.port p).asm = q.asm ∧
    (starved < recStarvation r →
      (t.port p).circuit = q.circuit ∧ (t.port p).counts = taken.counts ∧
      (t.port p).engine = { taken.engine with starvedRun := starved, fill := fill, stored := false } ∧
      (t.port p).clk = steer s.image r fill q.clk ∧
      OtherPortsSame p s t ∧ Touches [.ports] s t) ∧
    (recStarvation r ≤ starved →
      (t.port p).circuit = { q.circuit with state := .wait, flushCount := 0 } ∧
      (t.port p).counts = { taken.counts with starvations := bump taken.counts.starvations } ∧
      (t.port p).engine = ⟨Vector.replicate 16 none, none, 0, 0, 0, false⟩ ∧
      HeldOver (recN r) { q.clk with held := q.clk.integrator } (t.port p).clk ∧
      t.changes = withEntry s.now (.circuitState p .wait) s.changes ∧
      OtherPortsSame p s t ∧ Touches [.ports, .changes] s t))

/-- R71, R72, R78: octets are taken one after another.  One octet taken at a play position: the cell's own octet, all-ones for a SRC-LOST cell, fill where no
cell of the count is held; at octet 0 *played from A*, *played from B* or *missing* adds one; the position advances,
and a cell leaves with its last octet.  The fill figure is 0 without a position or without a held cell, else the
distance of the farthest held count from the position, and one, times N, less the offset; it does not exceed 16 × N. -/
def Obligations.TakeAndFill : Prop :=
  (∀ (r : CircuitRecord) (n : Nat) (t : Take),
    takeOctets r 0 t = t ∧ takeOctets r (n + 1) t = takeOctets r n (takeOctet r t)) ∧
  (∀ (r : CircuitRecord) (t : Take) (pos : Position), t.engine.position = some pos → pos.offset < recN r →
    let held := t.engine.cellOf pos.count
    let u := takeOctet r t
    u.octets = t.octets ++ [match held with
      | none => recFillOctet r
      | some h => if h.srcLost then 0xFF else h.payload.getD pos.offset 0] ∧
    u.fromCell = (t.fromCell || held.isSome) ∧
    u.engine.position = some (if pos.offset + 1 = recN r then ⟨pos.count + 1, 0⟩ else ⟨pos.count, pos.offset + 1⟩) ∧
    (∀ c : BitVec 16, u.engine.cellOf c =
      (if pos.offset + 1 = recN r ∧ c = pos.count then none else t.engine.cellOf c)) ∧
    u.counts = (if pos.offset ≠ 0 then t.counts else match held with
      | none => { t.counts with missing := bump t.counts.missing }
      | some h => match h.lane with
        | none => t.counts
        | some .A => { t.counts with playedA := bump t.counts.playedA }
        | some .B => { t.counts with playedB := bump t.counts.playedB })) ∧
  (∀ (n : Nat) (e : Engine),
    (e.position = none → e.measure n = 0) ∧
    (∀ pos, e.position = some pos → (∀ i : Fin 16, e.buffer[i] = none) → e.measure n = 0) ∧
    (∀ pos, e.position = some pos → (∃ i : Fin 16, e.buffer[i] ≠ none) →
      (∀ i : Fin 16, ∀ h, e.buffer[i] = some h → (h.count - pos.count).toNat ≤ 15) →
      (∃ i : Fin 16, ∃ far, e.buffer[i] = some far ∧
        (∀ j : Fin 16, ∀ h, e.buffer[j] = some h → (h.count - pos.count).toNat ≤ (far.count - pos.count).toNat) ∧
        e.measure n = ((far.count - pos.count).toNat + 1) * n - pos.offset) ∧
      e.measure n ≤ 16 * n))

/-- R67: an arriving cell in PREFILL or PLAY with a play position, by its distance from the position, the first row
of the table that applies deciding; late and duplicate cells change nothing but their counter. -/
def Obligations.CellSorted : Prop :=
  ∀ (p : Fin 8) (c : HeldCell) (s : State) (pos : Position),
    (s.port p).circuit.state = .prefill ∨ (s.port p).circuit.state = .play →
    (s.port p).engine.position = some pos →
    let q := s.port p
    let d := (c.count - pos.count).toNat
    let slot := slotOf c.count
    let t := acceptCell p c s
    (d = 0 ∧ 0 < pos.offset ∨ 32768 ≤ d →
      t = s.modPort p fun q => { q with counts := { q.counts with late := bump q.counts.late } }) ∧
    (¬(d = 0 ∧ 0 < pos.offset) → d ≤ 15 → (∃ h, q.engine.buffer[slot] = some h ∧ h.count = c.count) →
      t = s.modPort p fun q => { q with counts := { q.counts with duplicateCells := bump q.counts.duplicateCells } }) ∧
    (¬(d = 0 ∧ 0 < pos.offset) → d ≤ 15 → (∀ h, q.engine.buffer[slot] = some h → h.count ≠ c.count) →
      t = s.modPort p fun q => { q with
        engine := { q.engine with buffer := q.engine.buffer.set slot (some c), stored := true }
        counts := { q.counts with cellsAccepted := bump q.counts.cellsAccepted } }) ∧
    (16 ≤ d → d ≤ 32767 → t = slip p s ∧ (t.port p).circuit.state = .flush ∧
      (t.port p).counts = { q.counts with slips := bump q.counts.slips })

/-- R62, R65, R66, R68, R84, R88, R113: the acceptance of a cell by circuit state: WAIT discards it and goes to FLUSH,
FLUSH discards it, PREFILL without a position stores it as the anchor; a slip empties the buffer, saves the
integrator from PLAY alone, and goes to FLUSH. -/
def Obligations.CellAccepted : Prop :=
  ∀ (p : Fin 8) (c : HeldCell) (s : State),
    let q := s.port p
    let empty : Engine := ⟨Vector.replicate 16 none, none, 0, 0, 0, false⟩
    let flushed := { q.counts with flushedCells := bump q.counts.flushedCells }
    let t := acceptCell p c s
    (q.circuit.state = .wait →
      t.port p = { q with counts := flushed, engine := empty,
                          circuit := { q.circuit with state := .flush, flushCount := 0 } } ∧
      t.changes = withEntry s.now (.circuitState p .flush) s.changes ∧
      OtherPortsSame p s t ∧ Touches [.ports, .changes] s t) ∧
    (q.circuit.state = .flush → t.port p = { q with counts := flushed } ∧
      OtherPortsSame p s t ∧ Touches [.ports] s t) ∧
    (q.circuit.state = .prefill → q.engine.position = none →
      t.port p = { q with
        engine := { q.engine with buffer := q.engine.buffer.set (slotOf c.count) (some c), stored := true,
                                  position := some ⟨c.count, 0⟩ }
        counts := { q.counts with cellsAccepted := bump q.counts.cellsAccepted } } ∧
      OtherPortsSame p s t ∧ Touches [.ports] s t) ∧
    (let u := slip p s
     u.port p = { q with
        engine := empty, circuit := { q.circuit with state := .flush, flushCount := 0 }
        clk := if q.circuit.state = .play then { q.clk with held := q.clk.integrator } else q.clk
        counts := { q.counts with slips := bump q.counts.slips } } ∧
      u.changes = withEntry s.now (.circuitState p .flush) s.changes ∧
      OtherPortsSame p s u ∧ Touches [.ports, .changes] s u)

/-! ### Chapter 5: circuit states and lane selection -/

/-- R65, R74, R76, R84, R85, R86, R87, R88: the limits of a circuit: a starved run at the starvation limit in PLAY
saves the integrator and goes to WAIT, an idle run at it in PREFILL goes to WAIT, and a flush count at the flush
setting in FLUSH goes to PREFILL, each with its entry. -/
def Obligations.CircuitLimits : Prop :=
  ∀ (p : Fin 8) (s : State), s.rstLow = false →
    let q := s.port p
    let r := s.setting p
    let empty : Engine := ⟨Vector.replicate 16 none, none, 0, 0, 0, false⟩
    (q.circuit.state = .play → recStarvation r ≤ q.engine.starvedRun →
      ∃ t, exec (.starvation p) s = .next t ∧
        t.port p = { q with
          engine := empty, clk := { q.clk with held := q.clk.integrator }
          circuit := { q.circuit with state := .wait, flushCount := 0 }
          counts := { q.counts with starvations := bump q.counts.starvations } } ∧
        t.changes = withEntry s.now (.circuitState p .wait) s.changes ∧
        OtherPortsSame p s t ∧ Touches [.ports, .changes] s t) ∧
    (q.circuit.state = .prefill → recStarvation r ≤ q.engine.idleRun →
      ∃ t, exec (.idleRunLimit p) s = .next t ∧
        t.port p = { q with engine := empty, circuit := { q.circuit with state := .wait, flushCount := 0 } } ∧
        t.changes = withEntry s.now (.circuitState p .wait) s.changes ∧
        OtherPortsSame p s t ∧ Touches [.ports, .changes] s t) ∧
    (q.circuit.state = .flush → recFlush r ≤ q.circuit.flushCount →
      ∃ t, exec (.flushEnd p) s = .next t ∧
        t.port p = { q with circuit := { q.circuit with state := .prefill, flushCount := 0 } } ∧
        t.changes = withEntry s.now (.circuitState p .prefill) s.changes ∧
        OtherPortsSame p s t ∧ Touches [.ports, .changes] s t)

/-- R91, R93, R94, R130: the traffic criterion and the revert timer switch the current lane, to the other lane and back
to the configured lane, and the delay figure is computed again on the new lane. -/
def Obligations.LaneSwitches : Prop :=
  (∀ (p : Fin 8) (s : State) (L : Lane), s.rstLow = false → s.ctl.station = .run →
    (s.port p).circuit.current = some L → recSwitchLimit (s.setting p) ≤ (s.port p).circuit.tally.run →
    (s.port p).circuit.tally.otherSeen = true →
    ∃ t, exec (.trafficSwitch p) s = .next t ∧ Switched p L.other s t) ∧
  (∀ (p : Fin 8) (s : State) (u : Time) (L : Lane), s.rstLow = false → s.ctl.station = .run →
    (s.port p).circuit.revert = some u → expired s.now u = true →
    (recMode (s.setting p)).configured = some L → (s.port p).circuit.current = some L.other →
    ∃ t, exec (.revertTimerExpiry p) s = .next t ∧ Switched p L s t)

/-- R90 to R93, R95: at an interval event in RUN the period of a pinned circuit closes: a cell on the current lane sets the
switch run to 0; a period without one adds one to the run, up to the switch limit, and remembers a cell seen on the
other lane; a run at the switch limit with the other lane seen switches the lane; outside RUN no period closes.  The
presence criterion switches the lane exactly when the far peer is absent on the current lane and present on the other.
R40, R94, R95, R130: a change of a peer's presence is reported to every port of its circuit role and to no other.  In RUN the report, of the
configured lane, starts or stops the revert timer of a circuit that stands on the other lane with W of 1 s or more; the
criterion is tested; and the delay figure is computed again.  In QUIET the figure alone is; in CLASH nothing happens. -/
def Obligations.TallyAndPresence : Prop :=
  (∀ (p : Fin 8) (s : State) (L : Lane), s.ctl.station = .run → (s.port p).circuit.current = some L →
    let q := s.port p
    let limit := recSwitchLimit (s.setting p)
    let tally := q.circuit.tally
    let seen := tally.otherSeen || tally.otherMark
    let t := closeTally p s
    let becomes (x : Tally) : Prop :=
      t.port p = { q with circuit := { q.circuit with tally := x } } ∧ OtherPortsSame p s t ∧ Touches [.ports] s t
    (tally.currentMark = true → becomes ⟨false, false, 0, false⟩) ∧
    (tally.currentMark = false → tally.run + 1 < limit → becomes ⟨false, false, tally.run + 1, seen⟩) ∧
    (tally.currentMark = false → limit ≤ tally.run + 1 → seen = false → becomes ⟨false, false, limit, false⟩) ∧
    (tally.currentMark = false → limit ≤ tally.run + 1 → seen = true → Switched p L.other s t)) ∧
  (∀ (p : Fin 8) (s : State) (L : Lane), (s.port p).circuit.current = some L →
    (s.farPresent p L = false → s.farPresent p L.other = true → Switched p L.other s (checkPresence p s)) ∧
    (s.farPresent p L = true ∨ s.farPresent p L.other = false → checkPresence p s = s)) ∧
  (∀ (p : Fin 8) (s : State), (s.port p).circuit.current = none → closeTally p s = s ∧ checkPresence p s = s) ∧
  (∀ (p : Fin 8) (s : State), s.ctl.station ≠ .run → closeTally p s = s) ∧
  (∀ (p : Fin 8) (L : Lane) (present : Bool) (s : State),
    let q := s.port p
    let wait := recRevertWait (s.setting p)
    let revert : Timer :=
      if (recMode (s.setting p)).configured = some L ∧ q.circuit.current = some L.other ∧ 1 ≤ wait then
        (if present then some (s.after (wait * 10000000)) else none)
      else q.circuit.revert
    let t := presenceReport L present p s
    (s.ctl.station = .run →
      (∀ c, q.circuit.current = some c → s.farPresent p c = false → s.farPresent p c.other = true →
        Switched p c.other s t) ∧
      ((∀ c, q.circuit.current = some c → s.farPresent p c = true ∨ s.farPresent p c.other = false) →
        t = evaluateDelay p (s.modPort p fun q => { q with circuit := { q.circuit with revert := revert } }))) ∧
    (s.ctl.station = .quiet → t = evaluateDelay p s) ∧
    (s.ctl.station ≠ .run → s.ctl.station ≠ .quiet → t = s)) ∧
  (∀ (i : Nat) (L : Lane) (hop : Nat) (s : State) (r : Peer) (p : Fin 8), s.peers[i]? = some r →
    let becomes (l : PeerLane) : State := { s with peers := s.peers.set i { r with lanes := r.lanes.set L l } }
    let heard := becomes { r.lanes.get L with
      present := true, hop := some (64 - hop), presenceTimer := some (s.after 300000) }
    let lost := becomes { r.lanes.get L with present := false, hop := none, presenceTimer := none }
    ((r.lanes.get L).present = false →
      (peerMark i L hop s).port p =
        (if r.circuits.getLsbD p.val then (presenceReport L true p heard).port p else s.port p)) ∧
    ((r.lanes.get L).present = true →
      (loseLane i L s).port p =
        (if r.circuits.getLsbD p.val then (presenceReport L false p lost).port p else s.port p)))

/-- R59, R84, R97, R98, R157, R162: a loop query for a circuit that is not OFF: a loop that differs is set, the buffer
is emptied and the circuit goes to FLUSH with its entry, LINE emptying the transmit store as well; the loop already
set changes nothing; either way the reply shows the loop.  A circuit that is OFF, or an index above 7, is refused. -/
def Obligations.LoopQueries : Prop :=
  ∀ (code : Byte) (want : LoopState) (c : QueryHead → Instr),
    (code, want, c) ∈ ([(6, .line, .setLoopLine), (7, .loc, .setLoopLocal), (8, .none, .clearLoop)] :
      List (Byte × LoopState × (QueryHead → Instr))) →
    (∀ (q : QueryHead) (s : State), s.rstLow = false → s.ctl.station = .run → Settled s →
      s.ctl.number = some q.dst.toNat → 8 ≤ q.index.toNat →
      ∃ t, exec (c q) s = .next t ∧
        Originates [.A, .B] (ownFrame .qryR q.src.toNat ([code, q.index] ++ be16 q.tag ++ [1, 0]) s) s t) ∧
    ∀ (q : QueryHead) (p : Fin 8) (s : State), s.rstLow = false → s.ctl.station = .run → Settled s →
      s.ctl.number = some q.dst.toNat → q.index.toNat = p.val →
      let old := s.port p
      let loopCode : Byte := match want with | .none => 0 | .loc => 1 | .line => 2
      let moved : Port := { old with
        engine := ⟨Vector.replicate 16 none, none, 0, 0, 0, false⟩
        circuit := { old.circuit with state := .flush, flushCount := 0, loop := want }
        tx := if want = .line then { old.tx with store := [], sentBits := 0 } else old.tx }
      let answer (status : Byte) (record : Octets) :=
        ownFrame .qryR q.src.toNat ([code, q.index] ++ be16 q.tag ++ [status, 0] ++ record) s
      ∃ t, exec (c q) s = .next t ∧
        (old.enabled = true → old.circuit.loop ≠ want →
          Originates [.A, .B] (answer 0 [loopCode])
            { s.modPort p (fun _ => moved) with changes := withEntry s.now (.circuitState p .flush) s.changes } t) ∧
        (old.enabled = true → old.circuit.loop = want → Originates [.A, .B] (answer 0 [loopCode]) s t) ∧
        (old.enabled = false → Originates [.A, .B] (answer 1 []) s t)

/-- R60, R61, R90, R96, R99: a TRIB whose destination port is not an enabled circuit with that far station and far port,
or whose class differs, is counted and dropped.  Any other is reported to the controller, which takes the sender lane
mode and, for a copy on the current lane, marks the tally; then it reaches the playout engine with its count, payload,
SRC-LOST flag and arrival lane, but for a circuit in local loop.  The sender lane mode of a far-end cell leaves the
ASYMMETRIC flag clear exactly when the circuit is pinned and the sender receives on the lane opposite to the circuit's
current lane; an entry is made when the flag changes. -/
def Obligations.FarEndCells : Prop :=
  (∀ (L : Lane) (src : Nat) (body : Octets) (s : State),
    let p := tribDestPort body
    let r := s.setting p
    let q := s.port p
    let t := receiveTrib L src body s
    let named : Prop := q.enabled = true ∧ src = recFarStation r ∧ tribSourcePort body = recFarPort r
    (¬named → t = { s with stats := { s.stats with unexpectedCircuit := bump s.stats.unexpectedCircuit } }) ∧
    (named → tribClass body ≠ some (recClass r) →
      t = { s with stats := { s.stats with classMismatch := bump s.stats.classMismatch } }) ∧
    (named → tribClass body = some (recClass r) →
      let mode := (oct body 3).toNat % 4
      let sender : Option Lane := if mode = 1 then some .A else if mode = 2 then some .B else none
      let new : Bool := decide ¬∃ M : Lane, q.circuit.current = some M ∧ sender = some M.other
      let tally := { q.circuit.tally with
        currentMark := q.circuit.tally.currentMark || decide (q.circuit.current = some L) }
      let reported : State := { s.modPort p (fun q =>
          { q with circuit := { q.circuit with asymmetric := new, tally := tally } }) with
        changes := if q.circuit.asymmetric = new then s.changes else withEntry s.now (.asymmetry p new) s.changes }
      (q.circuit.loop = .loc → t = reported) ∧
      (q.circuit.loop ≠ .loc →
        t = acceptCell p ⟨rd16 body 4, (body.drop 6).take (recN r), (oct body 3).getLsbD 7, some L⟩ reported))) ∧
  (∀ (p : Fin 8) (sender : Option Lane) (s : State),
    let q := s.port p
    let new : Bool := decide ¬∃ L : Lane, q.circuit.current = some L ∧ sender = some L.other
    let t := updateAsymmetric p sender s
    t.port p = { q with circuit := { q.circuit with asymmetric := new } } ∧
    t.changes = (if q.circuit.asymmetric = new then s.changes else withEntry s.now (.asymmetry p new) s.changes) ∧
    OtherPortsSame p s t ∧ Touches [.ports, .changes] s t)

/-! ### Chapter 6: the recovered clock -/

/-- R108: the proportional term is the steer step times the gain, divided by 16 and truncated, with the sign of the
error; 0 for an error of 0, and at most 4095 in magnitude. -/
def Obligations.ProportionalTerm : Prop :=
  ∀ (im : Image) (r : CircuitRecord) (fill : Nat),
    let e : Int := (fill : Int) - (recTarget r * recN r : Nat)
    let step := im.steerEntry (min 15 (e.natAbs / (recClass r).band))
    let p := steerTerm im r fill
    (e = 0 → p = 0) ∧ (0 < e → p = ((step * recGain r / 16 : Nat) : Int)) ∧
    (e < 0 → p = -((step * recGain r / 16 : Nat) : Int)) ∧
    (step * recGain r < 16 → p = 0) ∧ (recGain r = 16 → e ≠ 0 → p.natAbs = step) ∧
    (step ≤ 4095 → recGain r ≤ 16 → p.natAbs ≤ 4095)

/-- R109, R110: the steering computation: I takes I + p and C takes the new I + 8p, each limited to ±100,000 on its
own; the accumulator takes up N × C, gives an octet more or fewer at a whole octet, and keeps its range. -/
def Obligations.SteeringComputation : Prop :=
  ∀ (im : Image) (r : CircuitRecord) (fill : Nat) (c : ClockLoop), ClockLoopOk c →
    let limit (x : Int) : Int := if 100000 < x then 100000 else if x < -100000 then -100000 else x
    let p := steerTerm im r fill
    let c' := steer im r fill c
    let sum := c.accumulator + recN r * c'.applied
    c'.integrator = limit (c.integrator + p) ∧ c'.applied = limit (c'.integrator + 8 * p) ∧ c'.held = c.held ∧
    (1000000000 ≤ sum → c'.next = recN r + 1 ∧ c'.accumulator = sum - 1000000000) ∧
    (sum ≤ -1000000000 → c'.next = recN r - 1 ∧ c'.accumulator = sum + 1000000000) ∧
    (-1000000000 < sum → sum < 1000000000 → c'.next = recN r ∧ c'.accumulator = sum) ∧
    -999999999 ≤ c'.accumulator ∧ c'.accumulator ≤ 999999999

/-- R115, R181: a successful CLOSE puts the steer table in order: every entry at most 4095 and at least as large as
the one before it, an entry that needs neither change keeping its value, and every other numeric field within its range.
A class, lane mode, fill mode or direction code that names a value stays, and any other takes the code of the first value,
0; every field reads as before. -/
def Obligations.ClampedImageInRange : Prop :=
  ∀ im : Image,
    let cl := clampImage im
    (∀ j < 16, cl.steerEntry j ≤ 4095) ∧ (∀ j < 15, cl.steerEntry j ≤ cl.steerEntry (j + 1)) ∧
    cl.steerEntry 0 = min 4095 (im.steerEntry 0) ∧
    (∀ j < 15, cl.steerEntry (j + 1) = max (cl.steerEntry j) (min 4095 (im.steerEntry (j + 1)))) ∧
    cl.echoPeriod = max 10 (min 1000 im.echoPeriod) ∧ cl.instanceValue = im.instanceValue ∧
    (∀ p : Fin 8, let r := im.circuits[p]; let r' := cl.circuits[p]
      recEnabled r' = recEnabled r ∧ recClass r' = recClass r ∧ recMode r' = recMode r ∧
      recFarStation r' = recFarStation r ∧ recFarPort r' = min 7 (recFarPort r) ∧
      recTarget r' = max 2 (min 12 (recTarget r)) ∧ recFlush r' = max 1 (min 250 (recFlush r)) ∧
      recStarvation r' = max 1 (min 250 (recStarvation r)) ∧
      recSwitchLimit r' = max 1 (min 250 (recSwitchLimit r)) ∧ recRevertWait r' = min 60 (recRevertWait r) ∧
      recGain r' = max 1 (min 16 (recGain r)) ∧ recBudget r' = min 500 (recBudget r) ∧
      recFillOctet r' = recFillOctet r ∧
      (let code (o : Byte) : Nat := o.toNat / 4 % 4
       code r'[0] = if code r[0] ≤ 2 then code r[0] else 0) ∧
      (let code (o : Byte) : Nat := o.toNat % 4
       code r'[0] = if code r[0] ≤ 2 then code r[0] else 0) ∧
      r'[9] = (if r[9].toNat ≤ 1 then r[9] else 0) ∧ r'[10] = r[10]) ∧
    (∀ k : Fin 4, let r := im.commands[k]; let r' := cl.commands[k]
      r'[0] = (if r[0].toNat ≤ 3 then r[0] else 0) ∧ cmdDirection r' = cmdDirection r ∧ cmdFarStation r' = cmdFarStation r ∧
      cmdQualification r' = min 15 (cmdQualification r) ∧ cmdAnswerTimeout r' = max 5 (cmdAnswerTimeout r) ∧
      cmdTakenWindow r' = max 1 (min 100 (cmdTakenWindow r)) ∧ cmdMinimumHold r' = min 250 (cmdMinimumHold r))

/-! ### Chapter 7: path delay and the delay budget -/

/-- R120, R124: an echo round in RUN originates one ECHO to every peer on each lane, in order of peer index; the next
round falls one echo period later; with both lanes sending and room for it every ECHO joins its lane's queue with its own
sequence value.  (That lane A's ECHO of a peer is originated before lane B's is the model's choice, log entry 10.)  An ECHO addressed to this
station is answered in RUN on the lane opposite to its arrival lane, with t1 copied and t2 its arrival time; one
addressed otherwise is not. -/
def Obligations.EchoesSentAndAnswered : Prop :=
  (∀ (s : State) (u : Time), s.rstLow = false → s.ctl.station = .run → s.echoTimer = some u →
    expired s.now u = true →
    (∀ L : Lane, (s.forwarder L).egress ≠ .idle ∧ (s.forwarder L).localQ.length + s.peers.length ≤ 12) →
    let echo (k : Nat) (r : Peer) : Octets :=
      buildFrame .echo (s.ctl.number.getD 0) r.station (s.ctl.sequence + BitVec.ofNat 16 k) (List.replicate 47 0)
    ∃ t, exec .echoRound s = .next t ∧
      t.forwarder .A = { s.forwarder .A with
        localQ := (s.forwarder .A).localQ ++ s.peers.mapIdx fun i r => echo (2 * i) r } ∧
      t.forwarder .B = { s.forwarder .B with
        localQ := (s.forwarder .B).localQ ++ s.peers.mapIdx fun i r => echo (2 * i + 1) r } ∧
      t.ctl = { s.ctl with sequence := s.ctl.sequence + BitVec.ofNat 16 (2 * s.peers.length) } ∧
      t.echoTimer = some (u + BitVec.ofNat 32 (s.image.echoPeriod * 10000)) ∧
      Touches [.ctl, .lanes, .echoTimer] s t) ∧
  (∀ (s : State) (u : Time), s.rstLow = false → s.echoTimer = some u → expired s.now u = true →
    ∃ (t : State) (moment : Nat → State), exec .echoRound s = .next t ∧
      moment 0 = { s with echoTimer := some (u + BitVec.ofNat 32 (s.image.echoPeriod * 10000)) } ∧
      (∀ i r, s.peers[i]? = some r →
        moment (2 * i + 1) = originate .echo r.station [0, 0, 0, 0] [.A] (moment (2 * i)) ∧
        moment (2 * i + 2) = originate .echo r.station [0, 0, 0, 0] [.B] (moment (2 * i + 1))) ∧
      moment (2 * s.peers.length) = t) ∧
  (∀ (L : Lane) (src dst : Nat) (body : Octets) (s : State), s.ctl.station = .run → Settled s →
    (s.ctl.number = some dst →
      Originates [L.other] (ownFrame .echoR src (be32 (rd32 body 0) ++ be32 s.now ++ [0, 0, 0, 0]) s) s
        (answerEcho L src dst body s)) ∧
    (s.ctl.number ≠ some dst → answerEcho L src dst body s = s))

/-- R122, R125 to R128, R130: a lane part with three echoes missed becomes unmeasured: no samples and no figure.  An ECHO-R
that carries the outstanding t1 of its lane part ends that echo; a round trip of 0 to 500,000 ticks, each difference
taken modulo 2^32, joins the samples (the oldest of eight leaving), sets the missed count to 0 and gives the path
figure; any other round trip is invalid; a reply that does not match, or whose source has no peer record, is stale.  A
figure that changes takes every circuit of the peer's circuit role, and no other, through its delay figure again.  (That
the removal of the oldest sample has no figure of its own is the model's choice, log entry 27.) -/
def Obligations.EchoesMatchedOrMissed : Prop :=
  (∀ (i : Fin 12) (L : Lane) (s : State) (r : Peer), s.rstLow = false → s.ctl.station = .run →
    s.peers[i.val]? = some r → (r.lanes.get L).missed = 3 →
    ∃ t, exec (.echoUnmeasured i L) s = .next t ∧
      PartBecomes i.val L r { r.lanes.get L with samples := [], figure := none } s t ∧
      Touches [.peers, .ports, .changes, .tieBreak] s t) ∧
  (∀ (L : Lane) (src : Nat) (body : Octets) (s : State), (∀ r ∈ s.peers, r.station ≠ src) →
    matchEcho L src body s = { s with stats := { s.stats with staleEchoes := bump s.stats.staleEchoes } }) ∧
  (∀ (L : Lane) (src : Nat) (body : Octets) (s : State) (i : Nat) (r : Peer),
    s.peers[i]? = some r → r.station = src → (∀ j < i, ∀ x, s.peers[j]? = some x → x.station ≠ src) →
    let part := r.lanes.get L
    let t := matchEcho L src body s
    let rtt : Int := ((s.now - rd32 body 0).toNat : Int) - ((rd32 body 8 - rd32 body 4).toNat : Int)
    let samples := (if 8 ≤ part.samples.length then part.samples.drop 1 else part.samples) ++ [rtt.toNat]
    (part.outstanding ≠ some (rd32 body 0) →
      t = { s with stats := { s.stats with staleEchoes := bump s.stats.staleEchoes } }) ∧
    (part.outstanding = some (rd32 body 0) → rtt < 0 ∨ 500000 < rtt →
      t = { withPart i L r { part with outstanding := none } s with
        stats := { s.stats with invalidEchoes := bump s.stats.invalidEchoes } }) ∧
    (part.outstanding = some (rd32 body 0) → 0 ≤ rtt → rtt ≤ 500000 →
      PartBecomes i L r { part with
        outstanding := none, missed := 0, samples := samples, figure := (samples.min?).map (· / 2) } s t ∧
      Touches [.peers, .ports, .changes, .tieBreak] s t))

/-- R129 to R131: the delay figure of a circuit that is not OFF is the path figure of its reception lane, 10,000, and
the target times 10,000; OVER-BUDGET is set exactly when the budget is 1 or more and the figure exceeds it, with
an entry when the flag changes. -/
def Obligations.DelayFigureAndBudget : Prop :=
  ∀ (p : Fin 8) (s : State), (s.port p).enabled = true →
    let q := s.port p
    let r := s.setting p
    let budget := recBudget r
    let t := evaluateDelay p s
    let fig := (t.port p).circuit.delay
    let flag := (t.port p).circuit.overBudget
    let path (peer : Peer) (L : Lane) : Option Nat := (peer.lanes.get L).figure
    (s.peers.find? (fun x => x.station == recFarStation r) = none → fig = none) ∧
    (∀ peer, s.peers.find? (fun x => x.station == recFarStation r) = some peer →
      (recMode r ≠ .first → ∀ L, q.circuit.current = some L →
        fig = (path peer L).map (· + 10000 + recTarget r * 10000)) ∧
      (recMode r = .first →
        (∀ a, fig = some a ↔ ∃ L f, (peer.lanes.get L).present = true ∧ path peer L = some f ∧
          a = f + 10000 + recTarget r * 10000 ∧
          ∀ M g, (peer.lanes.get M).present = true → path peer M = some g → f ≤ g))) ∧
    (flag = true ↔ 1 ≤ budget ∧ ∃ f, fig = some f ∧ budget * 1000 < f) ∧
    t.port p = { q with circuit := { q.circuit with delay := fig, overBudget := flag } } ∧
    t.changes = (if q.circuit.overBudget = flag then s.changes else withEntry s.now (.budget p flag) s.changes) ∧
    OtherPortsSame p s t ∧ Touches [.ports, .changes] s t

/-! ### Chapter 8: protection commands -/

/-- R135, R136: a change of CIk with an outgoing record: a level that differs from the qualified one starts the
qualification timer, a return to the qualified level stops it; with a qualification time of 0 the change is taken
at once, as at an expiry.  With no outgoing record the pin is not read. -/
def Obligations.PinQualified : Prop :=
  ∀ (k : Fin 4) (level : Bool) (s : State), s.rstLow = false → (s.cmd k).ci ≠ level →
    let c := s.cmd k
    let ms := cmdQualification (s.cmdSetting k)
    ∃ t, exec (.ciChange k level) s = .next t ∧
      (c.outgoing = none → t = s.modCmd k fun c => { c with ci := level }) ∧
      (c.outgoing ≠ none → level = c.qualified →
        t = s.modCmd k fun c => { c with ci := level, qualTimer := none }) ∧
      (c.outgoing ≠ none → level ≠ c.qualified → ms ≠ 0 →
        t = s.modCmd k fun c => { c with ci := level, qualTimer := some (s.after (ms * 10000)) }) ∧
      (c.outgoing ≠ none → level ≠ c.qualified → ms = 0 →
        exec (.qualificationExpiry k) (s.modCmd k fun c => { c with ci := level, qualTimer := some s.now }) = .next t)

/-- R136, R137, R140, R142: at the end of the qualification the qualified level takes the pin's level.  In RUN an
assertion starts a new activation with its CMD(ON) on both lanes and its CMD-SENT entry, and a deassertion while ON
begins the release with the first CMD(OFF); outside RUN the level changes alone. -/
def Obligations.QualifiedChangeTaken : Prop :=
  ∀ (k : Fin 4) (s : State) (u : Time) (o : Outgoing), s.rstLow = false → (s.cmd k).qualTimer = some u →
    expired s.now u = true → (s.cmd k).outgoing = some o →
    let level := (s.cmd k).ci
    let far := cmdFarStation (s.cmdSetting k)
    let cmdFrame (on act : BitVec 8) := ownFrame .cmd far [BitVec.ofNat 8 (k.val + 1), on, act] s
    let act := o.activation + 1
    let sent : Outgoing := ⟨.on, act, .awaiting, none, 0, some (s.after 20000),
      some (s.after (cmdAnswerTimeout (s.cmdSetting k) * 10000))⟩
    let releasing : Outgoing := { o with activity := .releasing, offLeft := 2, repeatTimer := some (s.after 20000) }
    ∃ t, exec (.qualificationExpiry k) s = .next t ∧
      (s.ctl.station ≠ .run → t = s.modCmd k fun c => { c with qualified := level, qualTimer := none }) ∧
      (s.ctl.station = .run → level = true → Settled s →
        ∃ t1, Originates [.A, .B] (cmdFrame 1 act)
            (s.modCmd k fun c => { c with qualified := true, qualTimer := none, outgoing := some sent }) t1 ∧
          t = { t1 with changes := withEntry s.now (.cmdSent k act) s.changes }) ∧
      (s.ctl.station = .run → level = false → o.activity = .on → Settled s →
        Originates [.A, .B] (cmdFrame 0 o.activation)
          (s.modCmd k fun c => { c with qualified := false, qualTimer := none, outgoing := some releasing }) t) ∧
      (s.ctl.station = .run → level = false → o.activity ≠ .on →
        t = s.modCmd k fun c => { c with qualified := false, qualTimer := none })

/-- R141, R142, R144: the repeat timer sends one more CMD(ON) while ON, and while RELEASING the next CMD(OFF), after
the third of which the record is IDLE; the answer timer makes an awaited answer UNANSWERED with its entry. -/
def Obligations.OutgoingTimersExpire : Prop :=
  (∀ (k : Fin 4) (s : State) (u : Time) (o : Outgoing), s.rstLow = false → s.ctl.station = .run → Settled s →
    (s.cmd k).outgoing = some o → o.repeatTimer = some u → expired s.now u = true →
    let far := cmdFarStation (s.cmdSetting k)
    let cmdFrame (on : BitVec 8) := ownFrame .cmd far [BitVec.ofNat 8 (k.val + 1), on, o.activation] s
    let timer := some (s.after 20000)
    ∃ t, exec (.repeatTimerExpiry k) s = .next t ∧
      (o.activity = .on → Originates [.A, .B] (cmdFrame 1)
        (s.modCmd k fun c => { c with outgoing := some { o with repeatTimer := timer } }) t) ∧
      (o.activity = .releasing → 2 ≤ o.offLeft → Originates [.A, .B] (cmdFrame 0)
        (s.modCmd k fun c =>
          { c with outgoing := some { o with offLeft := o.offLeft - 1, repeatTimer := timer } }) t) ∧
      (o.activity = .releasing → o.offLeft = 1 → Originates [.A, .B] (cmdFrame 0)
        (s.modCmd k fun c =>
          { c with outgoing := some { o with activity := .idle, offLeft := 0, repeatTimer := none } }) t)) ∧
  (∀ (k : Fin 4) (s : State) (u : Time) (o : Outgoing), s.rstLow = false → (s.cmd k).outgoing = some o →
    o.answerTimer = some u → expired s.now u = true → o.answer = .awaiting →
    ∃ t, exec (.answerTimerExpiry k) s = .next t ∧
      t.cmd k = { s.cmd k with outgoing := some { o with answer := .unanswered, answerTimer := none } } ∧
      t.changes = withEntry s.now (.cmdUnanswered k o.activation) s.changes ∧
      OtherCommandsSame k s t ∧ Touches [.cmds, .changes] s t)

/-- R138, R143: a CMDACK from the far station for the present activation answers an awaited or an unanswered
activation, once; every other answer of the far station is stale, and an answer without a record or from elsewhere
is unexpected. -/
def Obligations.AnswerJudged : Prop :=
  ∀ (k : Fin 4) (src : Nat) (body : Octets) (s : State), oct body 0 = BitVec.ofNat 8 (k.val + 1) →
    let t := receiveCmdAck src body s
    let conditions : Conditions := ⟨(oct body 2).getLsbD 0, (oct body 2).getLsbD 1, (oct body 2).getLsbD 2⟩
    ((s.cmd k).outgoing = none ∨ src ≠ cmdFarStation (s.cmdSetting k) →
      t = { s with stats := { s.stats with unexpectedCommands := bump s.stats.unexpectedCommands } }) ∧
    (∀ o, (s.cmd k).outgoing = some o → src = cmdFarStation (s.cmdSetting k) →
      (o.answer = .awaiting → oct body 1 = o.activation →
        t = s.modCmd k fun c => { c with outgoing := some { o with
          answer := .answered, conditions := some conditions, answerTimer := none } }) ∧
      (o.answer = .unanswered → oct body 1 = o.activation →
        t = s.modCmd k fun c => { c with outgoing := some { o with
          answer := .answeredLate, conditions := some conditions } }) ∧
      (oct body 1 ≠ o.activation ∨ (o.answer ≠ .awaiting ∧ o.answer ≠ .unanswered) →
        t = { s with stats := { s.stats with staleAnswers := bump s.stats.staleAnswers } }))

/-- R138, R146 to R151: a CMD of the far station that is newer is accepted.  An ON that finds the record IDLE, or REFUSED
with another activation, activates the command where BLOCK is deasserted: COk asserted, the entry CMD-RECEIVED, a new
answer cycle; and is refused with a CMDACK(BLOCKED) where BLOCK is asserted, a cycle still open being abandoned.  (That an
answered cycle stays is the model's reading, log entry 11.)  An ON that finds it ACTIVE or REFUSED with the same activation
restarts the persistence timer; a new activation of an ACTIVE record, and any of a HOLDING one, opens a cycle marked
ALREADY, and HOLDING becomes ACTIVE.  TKk high at the start of a cycle answers it at once with TAKEN.  An OFF releases an
ACTIVE record: IDLE with COk released when the minimum hold has passed since the assertion, else HOLDING until it has; it
takes REFUSED to IDLE, and IDLE and HOLDING stay.  A CMD from elsewhere, without a record or not newer, and a CMD or
CMDACK that names no command, is counted and dropped. -/
def Obligations.CommandReceived : Prop :=
  (∀ (k : Fin 4) (src : Nat) (seq : BitVec 16) (body : Octets) (s : State), oct body 0 = BitVec.ofNat 8 (k.val + 1) →
    let t := receiveCmd src seq body s
    let act := oct body 2
    let far := cmdFarStation (s.cmdSetting k)
    let isNewer (last : Option (BitVec 16)) : Prop :=
      ∀ l, last = some l → 1 ≤ (seq - l).toNat ∧ (seq - l).toNat ≤ 32767
    let cmdAck (conditions : Byte) : Octets := ownFrame .cmdAck far [BitVec.ofNat 8 (k.val + 1), act, conditions] s
    let window : Timer := some (s.after (cmdTakenWindow (s.cmdSetting k) * 10000))
    ((s.cmd k).incoming = none ∨ src ≠ far ∨ (∃ r, (s.cmd k).incoming = some r ∧ ¬isNewer r.lastSeq) →
      t = { s with stats := { s.stats with unexpectedCommands := bump s.stats.unexpectedCommands } }) ∧
    (∀ r, (s.cmd k).incoming = some r → src = far → isNewer r.lastSeq →
      let accepted : Incoming := { r with lastSeq := some seq, seqTimer := some (s.after 2000000) }
      let seen : Incoming := { accepted with persistence := some (s.after 100000) }
      let becomes (co : Bool) (x : Incoming) : State := s.modCmd k fun c => { c with co := co, incoming := some x }
      ((oct body 1).getLsbD 0 = true →
        (r.state = .idle ∨ (r.state = .refused ∧ r.activation ≠ some act) →
          let active (c : Cycle) : Incoming :=
            { seen with state := .active, activation := some act, assertTime := some s.now, cycle := some c }
          (s.block = false → (s.cmd k).tk = false →
            t = { becomes true (active ⟨act, false, false, window⟩) with
              changes := withEntry s.now (.cmdReceived k act) s.changes }) ∧
          (s.block = false → (s.cmd k).tk = true → s.ctl.station = .run → Settled s →
            ∃ t1, Originates [.A, .B] (cmdAck 1) (becomes true (active ⟨act, false, true, none⟩)) t1 ∧
              t = { t1 with changes := withEntry s.now (.cmdReceived k act) s.changes }) ∧
          (s.block = true → s.ctl.station = .run → Settled s →
            Originates [.A, .B] (cmdAck 4)
              (becomes (s.cmd k).co { seen with
                state := .refused, activation := some act
                cycle := match r.cycle with
                  | none => none
                  | some c => if c.answered then some c else none }) t)) ∧
        (r.state = .active ∨ r.state = .refused → r.activation = some act → t = becomes (s.cmd k).co seen) ∧
        (∀ x : Incoming,
          (r.state = .active ∧ r.activation ≠ some act ∧ x = { seen with activation := some act }) ∨
            (r.state = .holding ∧ x = { seen with state := .active, hold := none, activation := some act }) →
          ((s.cmd k).tk = false → t = becomes (s.cmd k).co { x with cycle := some ⟨act, true, false, window⟩ }) ∧
          ((s.cmd k).tk = true → s.ctl.station = .run → Settled s →
            Originates [.A, .B] (cmdAck 3)
              (becomes (s.cmd k).co { x with cycle := some ⟨act, true, true, none⟩ }) t))) ∧
      ((oct body 1).getLsbD 0 = false →
        let idle : Incoming :=
          { accepted with state := .idle, activation := none, assertTime := none, persistence := none, hold := none }
        let least := cmdMinimumHold (s.cmdSetting k) * 10000
        (∀ a, r.state = .active → r.assertTime = some a → least ≤ (s.now - a).toNat → t = becomes false idle) ∧
        (∀ a, r.state = .active → r.assertTime = some a → (s.now - a).toNat < least →
          t = becomes (s.cmd k).co { accepted with
            state := .holding, persistence := none, hold := some (a + BitVec.ofNat 32 least) }) ∧
        (r.state = .refused → t = becomes false idle) ∧
        (r.state = .idle ∨ r.state = .holding → t = becomes (s.cmd k).co accepted)))) ∧
  (∀ (src : Nat) (seq : BitVec 16) (body : Octets) (s : State),
    (∀ k : Fin 4, oct body 0 ≠ BitVec.ofNat 8 (k.val + 1)) →
    let counted := { s with stats := { s.stats with unexpectedCommands := bump s.stats.unexpectedCommands } }
    receiveCmd src seq body s = counted ∧ receiveCmdAck src body s = counted)

/-- R150, R151: the persistence timer takes an ACTIVE record to HOLDING until the minimum hold has passed since COk's
assertion, and to IDLE with COk released when it has, and a REFUSED one to IDLE; the hold timer takes HOLDING to IDLE;
the sequence timer forgets the last accepted sequence in whichever state. -/
def Obligations.IncomingTimersExpire : Prop :=
  ∀ (k : Fin 4) (s : State) (r : Incoming) (u : Time), s.rstLow = false → (s.cmd k).incoming = some r →
    expired s.now u = true →
    let idle : Incoming := { r with state := .idle, activation := none, assertTime := none, persistence := none, hold := none }
    let least := cmdMinimumHold (s.cmdSetting k) * 10000
    (r.persistence = some u →
      ∃ t, exec (.persistenceTimerExpiry k) s = .next t ∧
        (∀ a, r.state = .active → r.assertTime = some a → least ≤ (s.now - a).toNat →
          t.cmd k = { s.cmd k with co := false, incoming := some idle }) ∧
        (∀ a, r.state = .active → r.assertTime = some a → (s.now - a).toNat < least →
          t.cmd k = { s.cmd k with incoming := some { r with
            state := .holding, persistence := none, hold := some (a + BitVec.ofNat 32 least) } }) ∧
        (r.state = .refused → t.cmd k = { s.cmd k with co := false, incoming := some idle }) ∧
        OtherCommandsSame k s t ∧ Touches [.cmds] s t) ∧
    (r.hold = some u → r.state = .holding →
      ∃ t, exec (.holdTimerExpiry k) s = .next t ∧ t.cmd k = { s.cmd k with co := false, incoming := some idle } ∧
        OtherCommandsSame k s t ∧ Touches [.cmds] s t) ∧
    (r.seqTimer = some u →
      ∃ t, exec (.sequenceTimerExpiry k) s = .next t ∧
        t.cmd k = { s.cmd k with incoming := some { r with lastSeq := none, seqTimer := none } } ∧
        OtherCommandsSame k s t ∧ Touches [.cmds] s t)

/-- R147, R149: TKk's assertion answers an open cycle in RUN with TAKEN, whether or not its window still runs; the
window's expiry answers it without; ALREADY is as the cycle has it, and the cycle stays, answered.  With no open cycle
TKk is ignored.  A change of BLOCK acts on nothing else. -/
def Obligations.AnswerCycleEnds : Prop :=
  (∀ (k : Fin 4) (s : State) (r : Incoming) (c : Cycle), s.rstLow = false → s.ctl.station = .run →
    Settled s → (s.cmd k).incoming = some r → r.cycle = some c → c.answered = false →
    let already : BitVec 8 := if c.already then 2 else 0
    let ack (taken : BitVec 8) := ownFrame .cmdAck (cmdFarStation (s.cmdSetting k))
      [BitVec.ofNat 8 (k.val + 1), c.activation, taken ||| already] s
    let done := some { r with cycle := some { c with answered := true, window := none } }
    (∃ t, exec (.tkChange k true) s = .next t ∧
      Originates [.A, .B] (ack 1) (s.modCmd k fun x => { x with tk := true, incoming := done }) t) ∧
    (∀ u, c.window = some u → expired s.now u = true →
      ∃ t, exec (.takenWindowExpiry k) s = .next t ∧
        Originates [.A, .B] (ack 0) (s.modCmd k fun x => { x with incoming := done }) t)) ∧
  (∀ (k : Fin 4) (s : State) (level : Bool), s.rstLow = false →
    level = false ∨ (∀ r c, (s.cmd k).incoming = some r → r.cycle = some c → c.answered = true) →
    exec (.tkChange k level) s = .next (s.modCmd k fun x => { x with tk := level })) ∧
  (∀ (s : State) (level : Bool), ∃ t, exec (.blockChange level) s = .next t ∧ t.block = level ∧ Touches [.block] s t)

/-! ### Chapter 9: queries and the change queue -/

/-- R156 to R161: a read query addressed to this station in RUN is answered on both lanes with its kind, index and tag
and the record it asks for, or REFUSED with an empty record for an index outside its range; a query kind that names
none is REFUSED; nothing else changes.  R18, R37, R139, R145, R163, R183 and section 11.4: every octet of each record
holds the field that its table gives that offset.  (A far station is sent in six bits, log entry 12.) -/
def Obligations.ReadQueriesAnswered : Prop :=
  (∀ (q : QueryHead) (s : State), s.rstLow = false → s.ctl.station = .run → Settled s →
    s.ctl.number = some q.dst.toNat →
    let answer (code status : Byte) (record : Octets) : Octets :=
      ownFrame .qryR q.src.toNat ([code, q.index] ++ be16 q.tag ++ [status, 0] ++ record) s
    (∃ t, exec (.readStation q) s = .next t ∧ Originates [.A, .B] (answer 1 0 (stationRecord s)) s t) ∧
    (∃ t, exec (.readCircuit q) s = .next t ∧
      (∀ p : Fin 8, q.index.toNat = p.val →
        Originates [.A, .B] (answer 2 0 (circuitRecordOf (s.setting p) (s.port p))) s t) ∧
      (8 ≤ q.index.toNat → Originates [.A, .B] (answer 2 1 []) s t)) ∧
    (∃ t, exec (.readPeer q) s = .next t ∧
      (∀ r, s.peers[q.index.toNat]? = some r → Originates [.A, .B] (answer 3 0 r.octets) s t) ∧
      (s.peers.length ≤ q.index.toNat → Originates [.A, .B] (answer 3 1 []) s t)) ∧
    (∃ t, exec (.readCommand q) s = .next t ∧
      (∀ k : Fin 4, q.index.toNat = k.val + 1 →
        Originates [.A, .B] (answer 4 0 (commandRecordOf (s.cmdSetting k) (s.cmd k))) s t) ∧
      (q.index = 0 ∨ 4 < q.index.toNat → Originates [.A, .B] (answer 4 1 []) s t)) ∧
    (∀ code : Byte, (∀ n : Nat, 1 ≤ n → n ≤ 10 → code.toNat ≠ n) →
      ∃ t, exec (.unknownQueryKind code q) s = .next t ∧ Originates [.A, .B] (answer code 1 []) s t)) ∧
  (∀ s : State, IsStationRecord s (stationRecord s)) ∧
  (∀ (r : CircuitRecord) (q : Port), IsCircuitRecord r q (circuitRecordOf r q)) ∧
  (∀ r : Peer, IsPeerRecord r r.octets) ∧
  (∀ (r : CommandRecord) (c : Command), IsCommandRecord r c (commandRecordOf r c))

/-- R166 to R169: an entry made while the queue holds fewer than 32 joins the back and asserts ATTN; with 32 held it is
lost, the entries held are kept and the flag is set.  DRAIN takes the oldest entries, up to eight, and the flag;
they leave the queue at the reply's origination whether its copies are queued or not, the flag is cleared, and ATTN
falls when nothing is left.  The record holds the count, the flag, and each entry's time, kind, subject and value by the
tables of section 11.4, the oldest first. -/
def Obligations.ChangeQueueRule : Prop :=
  (∀ (c : Change) (s : State),
    (s.changes.entries.length < 32 →
      s.pushChange c = { s with changes := ⟨s.changes.entries ++ [⟨s.now, c⟩], s.changes.overflow, true⟩ }) ∧
    (32 ≤ s.changes.entries.length → s.pushChange c = { s with changes := { s.changes with overflow := true } })) ∧
  (∀ (q : QueryHead) (s : State), s.rstLow = false → s.ctl.station = .run → Settled s →
    s.ctl.number = some q.dst.toNat →
    let rest := s.changes.entries.drop 8
    ∃ t, exec (.drain q) s = .next t ∧
      Originates [.A, .B] (ownFrame .qryR q.src.toNat ([5, q.index] ++ be16 q.tag ++ [0, 0] ++
          drainRecord (s.changes.entries.take 8) s.changes.overflow) s)
        { s with changes := ⟨rest, false, !rest.isEmpty⟩ } t) ∧
  (∀ (taken : List ChangeEntry) (overflow : Bool), IsDrainRecord taken overflow (drainRecord taken overflow))

/-- R163, R164: a counter adds one and stops at 4,294,967,295.  CLEAR-COUNTS sets every counter to 0, both lanes', the
station's and every port's, and touches nothing else; its reply follows the clearing. -/
def Obligations.CountersRule : Prop :=
  (∀ c : Counter, (bump c).toNat = min (c.toNat + 1) 4294967295) ∧
  (∀ (q : QueryHead) (s : State), s.rstLow = false → s.ctl.station = .run → Settled s →
    s.ctl.number = some q.dst.toNat →
    ∃ s1 t, exec (.clearCounts q) s = .next t ∧
      (∀ L : Lane, s1.forwarder L = { s.forwarder L with counts := ⟨0, 0, 0, 0, 0, 0, 0, 0, 0, 0⟩ }) ∧
      s1.stats = ⟨0, 0, 0, 0, 0, 0, 0, 0⟩ ∧
      (∀ p : Fin 8, s1.port p = { s.port p with counts := ⟨0, 0, 0, 0, 0, 0, 0, 0, 0, 0, 0, 0, 0, 0⟩ }) ∧
      Touches [.lanes, .stats, .ports] s s1 ∧
      Originates [.A, .B] (ownFrame .qryR q.src.toNat ([9, q.index] ++ be16 q.tag ++ [0, 0]) s) s1 t)

/-- R20, R26, R34, R41, R101, R153, R165, R170, R174, R176: a RESTART query addressed to this station in RUN is taken at
once and not answered: QUIET with the quiet timer at 250 ms and the sequence counter at 0; local queues, duplicate
entries, lane states, dynamic peer parts, circuits, command records, counters and the change queue cleared; the
image, station time, transit queues, frames being sent, receive lines and qualifiers kept. -/
def Obligations.RestartTaken : Prop :=
  ∀ (q : QueryHead) (s : State), s.rstLow = false → s.ctl.station = .run → s.ctl.number = some q.dst.toNat →
    ∃ t, exec (.restart q) s = .next t ∧
      t.ctl = { s.ctl with station := .quiet, quiet := some (s.after 2500000), sequence := 0 } ∧
      (∀ L : Lane, t.forwarder L = { s.forwarder L with localQ := [], counts := LaneCounters.zero } ∧
        t.mark L = ⟨.closed, none, none⟩) ∧
      (∀ i : Fin 62, t.dup[i] = none) ∧ t.stats = StationCounters.zero ∧ t.changes = ⟨[], false, false⟩ ∧
      t.peers = s.peers.map (fun r => { r with lanes := PerLane.both ⟨false, none, none, none, 0, [], none⟩ }) ∧
      (∀ p : Fin 8, (s.port p).enabled = true →
        let q' := t.port p
        let r := s.setting p
        q'.circuit = ⟨.wait, 0, (recMode r).configured, ⟨false, false, 0, false⟩, none, false, false, .none, none⟩ ∧
        q'.clk = ⟨0, 0, 0, 0, recN r⟩ ∧ q'.engine.position = none ∧ (∀ i : Fin 16, q'.engine.buffer[i] = none) ∧
        q'.engine.fill = 0 ∧ q'.asm = ⟨false, none, 0⟩ ∧ q'.tx.store = [] ∧ q'.counts = CircuitCounters.zero ∧
        q'.rx = (s.port p).rx) ∧
      (∀ p : Fin 8, (s.port p).enabled = false → t.port p = s.port p) ∧
      (∀ k : Fin 4, (t.cmd k).co = false ∧ (t.cmd k).qualified = (s.cmd k).qualified ∧
        (t.cmd k).qualTimer = (s.cmd k).qualTimer ∧
        (t.cmd k).outgoing = (s.cmd k).outgoing.map (fun o => ⟨.idle, o.activation, .none, none, 0, none, none⟩) ∧
        (t.cmd k).incoming = (s.cmd k).incoming.map (fun _ => ⟨.idle, none, none, none, none, none, none, none⟩)) ∧
      t.markTimer = none ∧ t.echoTimer = none ∧
      Touches [.ctl, .lanes, .dup, .stats, .marks, .markTimer, .echoTimer, .peers, .ports, .cmds, .changes] s t

/-! ### Chapter 10: start-up and configuration -/

/-- R31, R34, R46, R120, R137, R140, R175: the quiet timer's expiry enters RUN: both lanes CLOSED with return timers
at 30 ms, the cadences of MARKs and echo rounds started, the assembler of every circuit that is not OFF started by
its line's state, and every command that is qualified ASSERTED and has an outgoing record ON in a new activation.
Receive lines, playout engines, clock loops and the image are as they were.  R11, R92, R100, R138, R173: at the entry the
first MARK, the first echo round, the CMD(ON) frames with their entries and the tests of the presence criterion are taken
one after another in an order that is free (log entry 3; lane A's ECHO of a peer before lane B's, log entry 10), each frame
taking one sequence value; each current lane is the configured lane, or the other one by one counted switch where the
far peer is present there alone. -/
def Obligations.EntryToRun : Prop :=
  ∀ (s : State) (u : Time), s.rstLow = false → s.ctl.station = .quiet → s.ctl.quiet = some u →
    expired s.now u = true →
    ∃ t, exec .quietExpiry s = .next t ∧
      t.ctl.station = .run ∧ t.ctl.quiet = none ∧ t.ctl.number = s.ctl.number ∧
      (∀ L : Lane, t.mark L = ⟨.closed, none, some (s.after 300000)⟩) ∧
      t.markTimer = some (s.after 100000) ∧
      t.echoTimer = some (s.after (s.image.echoPeriod * 10000)) ∧
      (∀ p : Fin 8, (s.port p).enabled = true →
        (t.port p).asm = ⟨true, some (match (s.port p).rx.line with
          | .present => .line []
          | .lost => .station (s.after 10000)), (s.port p).asm.nextCount⟩ ∧
        (t.port p).circuit.state = (s.port p).circuit.state ∧ (t.port p).circuit.tally = ⟨false, false, 0, false⟩ ∧
        (t.port p).rx = (s.port p).rx ∧ (t.port p).engine = (s.port p).engine ∧ (t.port p).clk = (s.port p).clk ∧
        (t.port p).tx = (s.port p).tx) ∧
      (∀ p : Fin 8, (s.port p).enabled = false → t.port p = s.port p) ∧
      (∀ (k : Fin 4) (o : Outgoing), (s.cmd k).outgoing = some o →
        (t.cmd k).outgoing = some (if (s.cmd k).qualified then
          ⟨.on, o.activation + 1, .awaiting, none, 0, some (s.after 20000),
            some (s.after (cmdAnswerTimeout (s.cmdSetting k) * 10000))⟩ else o)) ∧
      (∀ k : Fin 4, (t.cmd k).incoming = (s.cmd k).incoming ∧ (t.cmd k).co = (s.cmd k).co ∧
        (t.cmd k).qualified = (s.cmd k).qualified) ∧
      Touches [.ctl, .lanes, .clock, .marks, .markTimer, .echoTimer, .peers, .ports, .cmds, .changes, .tieBreak] s t ∧
      (let enabled := (List.finRange 8).filter fun p => (s.port p).enabled
       let asserted := (List.finRange 4).filter fun k => (s.cmd k).qualified && (s.cmd k).outgoing.isSome
       t.ctl.sequence = s.ctl.sequence + BitVec.ofNat 16 (1 + 2 * s.peers.length + asserted.length) ∧
       (∀ p ∈ enabled,
        let switches (c : Lane) : Prop :=
          (recMode (s.setting p)).configured = some c ∧ s.farPresent p c = false ∧ s.farPresent p c.other = true
        (∀ c, switches c → (t.port p).circuit.current = some c.other ∧
          (t.port p).counts =
            { (s.port p).counts with laneSwitches := bump (s.port p).counts.laneSwitches }) ∧
        ((∀ c, ¬switches c) → (t.port p).circuit.current = (recMode (s.setting p)).configured ∧
          (t.port p).circuit.revert = none ∧ (t.port p).counts = (s.port p).counts)) ∧
       ∃ (order : List RunTask) (choices : List Nat),
        order.Perm ([.mark, .echoes] ++ enabled.map .lane ++ asserted.map .assertion) ∧
        t = order.foldl (fun x task => runTask task x) { s with
          ctl := { s.ctl with station := .run, quiet := none }
          marks := PerLane.both ⟨.closed, none, some (s.after 300000)⟩
          markTimer := some (s.after 100000)
          echoTimer := some (s.after (s.image.echoPeriod * 10000))
          tieBreak := choices
          ports := Vector.ofFn fun p => if (s.port p).enabled then
            { s.port p with asm := ⟨true, some (match (s.port p).rx.line with
              | .present => .line []
              | .lost => .station (s.after 10000)), (s.port p).asm.nextCount⟩ } else s.port p }) ∧
      (∀ x : State,
        runTask .mark x = originate .mark 63 (be32 x.image.instanceValue ++ [3]) [.A, .B] x ∧
        runTask .echoes x = x.peers.foldl (fun x r =>
          originate .echo r.station [0, 0, 0, 0] [.B] (originate .echo r.station [0, 0, 0, 0] [.A] x)) x ∧
        (∀ p : Fin 8, (x.port p).enabled = true → runTask (.lane p) x =
          checkPresence p (x.modPort p fun q => { q with circuit := { q.circuit with
            current := (recMode (x.setting p)).configured, tally := ⟨false, false, 0, false⟩, revert := none } })) ∧
        (∀ (k : Fin 4) (o : Outgoing), (x.cmd k).outgoing = some o → runTask (.assertion k) x =
          (originate .cmd (cmdFarStation (x.cmdSetting k)) [BitVec.ofNat 8 (k.val + 1), 1, o.activation + 1] [.A, .B]
            (x.modCmd k fun c => { c with outgoing := some ⟨.on, o.activation + 1, .awaiting, none, 0,
              some (x.after 20000), some (x.after (cmdAnswerTimeout (x.cmdSetting k) * 10000))⟩ })).pushChange
            (.cmdSent k (o.activation + 1))))

/-- R178, R182: START and STOP end a transaction, the pointer absent and the refusing flag clear; the address byte
after a START is acknowledged exactly when it is the port's own, in either direction and every station state; a write
begins with no pointer and not refusing.  A read begins with the station state code; each byte that the bus controller
acknowledges is followed by the next of the four (state code, fault code, change queue depth, circuits in PLAY, and
then the state code again), read at the beginning of its sending; a byte not acknowledged ends the read.  (That the
acknowledgement comes with the byte's command is the model's reading, log entry 15.) -/
def Obligations.BusTransactions : Prop :=
  ∀ s : State, s.rstLow = false →
    (∃ t, exec .busStart s = .next t ∧ t.cfg.phase = .address ∧ t.cfg.pointer = none ∧ t.cfg.refusing = false ∧
      t.cfg.fault = s.cfg.fault ∧ t.cfg.cfga = s.cfg.cfga ∧ Touches [.cfg] s t) ∧
    (∃ t, exec .busStop s = .next t ∧ t.cfg.phase = .idle ∧ t.cfg.pointer = none ∧ t.cfg.refusing = false ∧
      t.cfg.fault = s.cfg.fault ∧ t.cfg.cfga = s.cfg.cfga ∧ Touches [.cfg] s t) ∧
    (∀ b : Byte, s.cfg.phase = .address →
      let own : Nat := if s.cfg.cfga then 0x2B else 0x2A
      ∃ t, exec (.addressByte b) s = .next t ∧
        t.cfg.ack = decide (b.toNat / 2 = own) ∧
        (b.toNat = 2 * own → t.cfg.phase = .writing ∧ t.cfg.pointer = none ∧ t.cfg.refusing = false) ∧
        (b.toNat = 2 * own + 1 → t.cfg.phase = .reading 0 ∧
          t.cfg.out = some (match s.ctl.station with
            | .noAddress => 0 | .load => 1 | .quiet => 2 | .run => 3 | .clash => 4)) ∧
        (b.toNat / 2 ≠ own → t.cfg.phase = .ignoring) ∧
        t.cfg.fault = s.cfg.fault ∧ t.cfg.cfga = s.cfg.cfga ∧ Touches [.cfg] s t) ∧
    (∀ (i : Fin 4) (bits : Byte), s.cfg.phase = .reading i →
      let status : Byte := match i with
        | 0 => BitVec.ofNat 8 s.cfg.fault
        | 1 => BitVec.ofNat 8 s.changes.entries.length
        | 2 => BitVec.ofNat 8 ((List.finRange 8).filter fun p => (s.port p).circuit.state = .play).length
        | 3 => match s.ctl.station with | .noAddress => 0 | .load => 1 | .quiet => 2 | .run => 3 | .clash => 4
      exec (.dataByte ⟨bits, true⟩) s =
        .next { s with cfg := { s.cfg with phase := .reading (i + 1), out := some status } } ∧
      exec (.dataByte ⟨bits, false⟩) s = .next { s with cfg := { s.cfg with phase := .ignoring, out := none } }) ∧
    (∀ b : BusByte, s.cfg.phase = .ignoring →
      exec (.dataByte b) s = .next { s with cfg := { s.cfg with ack := false } })

/-- R178, R179: in a write before the image is closed, a load byte whose middle bits are zero and which names a record
points at that record's first octet and is acknowledged; any other that is no CLOSE is refused; a data byte is written
at the pointer, which advances and is absent after the record's last octet.  After a refusal, and once the image is
closed, every byte, a CLOSE among them, is refused and changes nothing else. -/
def Obligations.WriteBytes : Prop :=
  ∀ (b : Byte) (acked : Bool) (s : State), s.rstLow = false → s.cfg.phase = .writing →
    (s.cfg.refusing = true ∨ s.closed = true →
      ∃ t, exec (.dataByte ⟨b, acked⟩) s = .next t ∧ exec (.loadByte b) s = .next t ∧ exec .close s = .next t ∧
        t = { s with cfg := { s.cfg with ack := false, refusing := true } }) ∧
    (s.cfg.refusing = false → s.closed = false → s.cfg.pointer = none → b ≠ 0xE0 →
      let kind := b.toNat / 32
      let index := b.toNat % 8
      let names (r : RecordRef) : Prop := b.toNat / 8 % 4 = 0 ∧ match r with
        | .station => kind = 0 ∧ index = 0
        | .circuit p => kind = 1 ∧ index = p.val
        | .command k => kind = 2 ∧ index = k.val
        | .steer => kind = 3 ∧ index = 0
      ∃ t, exec (.loadByte b) s = .next t ∧
        (∀ r, names r → t = { s with cfg := { s.cfg with ack := true, pointer := some ⟨r, 0⟩ } }) ∧
        ((∀ r, ¬names r) → t = { s with cfg := { s.cfg with ack := false, refusing := true } })) ∧
    (∀ l, s.cfg.refusing = false → s.closed = false → s.cfg.pointer = some l →
      let length := match l.record with | .station => 6 | .circuit _ => 13 | .command _ => 6 | .steer => 32
      ∃ t, exec (.dataByte ⟨b, acked⟩) s = .next t ∧ t.cfg.ack = true ∧ t.cfg.refusing = false ∧
        t.cfg.pointer = (if l.offset + 1 < length then some ⟨l.record, l.offset + 1⟩ else none) ∧
        (∀ r : RecordRef, recordOctets t.image r =
          if r = l.record then (recordOctets s.image r).set l.offset b else recordOctets s.image r) ∧
        Touches [.cfg, .image] s t)

/-- R180: a CLOSE that finds a fault changes nothing but the fault code, which takes the lowest-numbered fault, and is
refused: fault 1 in NO-ADDRESS, 2 for a far station of 0, of 63 or more or this station's own, 3 for two enabled
circuits with the same far station and far port as clamped, 4 for an instance value of zero.  (That a direction code
above 3 counts as disabled here, as it is clamped, is the model's reading, log entry 17.) -/
def Obligations.CloseFails : Prop :=
  ∀ s : State, s.rstLow = false → s.cfg.phase = .writing → s.cfg.refusing = false → s.closed = false →
    s.cfg.pointer = none →
    let im := s.image
    let bad (far : Nat) : Prop := far = 0 ∨ 63 ≤ far ∨ s.ctl.number = some far
    let fault2 : Prop := (∃ p : Fin 8, recEnabled im.circuits[p] = true ∧ bad (recFarStation im.circuits[p])) ∨
      ∃ k : Fin 4, cmdDirection im.commands[k] ≠ .disabled ∧ bad (cmdFarStation im.commands[k])
    let fault3 : Prop := ∃ p q : Fin 8, p ≠ q ∧ recEnabled im.circuits[p] = true ∧ recEnabled im.circuits[q] = true ∧
      recFarStation im.circuits[p] = recFarStation im.circuits[q] ∧
      min 7 (recFarPort im.circuits[p]) = min 7 (recFarPort im.circuits[q])
    let refusedWith (n : Nat) : Prop :=
      exec .close s = .next { s with cfg := { s.cfg with ack := false, refusing := true, fault := n } }
    (s.ctl.station = .noAddress → refusedWith 1) ∧
    (s.ctl.station ≠ .noAddress → fault2 → refusedWith 2) ∧
    (s.ctl.station ≠ .noAddress → ¬fault2 → fault3 → refusedWith 3) ∧
    (s.ctl.station ≠ .noAddress → ¬fault2 → ¬fault3 → im.instanceValue = 0 → refusedWith 4)

/-- R26, R34, R36, R37, R82, R103, R133, R135 to R137, R139, R145, R174, R180, R181: a CLOSE without a fault clamps the
image, builds the peer table in the order in which the stations first appear (circuits, then commands), with both roles
and every lane part empty, gives every enabled circuit its values of WAIT and every command its records, clears the
duplicate table, the marks and the counters, and enters QUIET; it is acknowledged and makes no change entry.  A CIk that
is high at the CLOSE starts its qualification.  (A direction code above 3 counts as disabled, log entry 17.) -/
def Obligations.CloseSucceeds : Prop :=
  ∀ s : State, s.rstLow = false → s.cfg.phase = .writing → s.cfg.refusing = false → s.ctl.station = .load →
    s.cfg.pointer = none →
    let im := s.image
    let bad (far : Nat) : Prop := far = 0 ∨ 63 ≤ far ∨ s.ctl.number = some far
    let enabled := (List.finRange 8).filter fun p => recEnabled im.circuits[p]
    let used := (List.finRange 4).filter fun k => cmdDirection im.commands[k] ≠ .disabled
    (∀ p ∈ enabled, ¬bad (recFarStation im.circuits[p])) → (∀ k ∈ used, ¬bad (cmdFarStation im.commands[k])) →
    (∀ p ∈ enabled, ∀ q ∈ enabled, p ≠ q → recFarStation im.circuits[p] = recFarStation im.circuits[q] →
      min 7 (recFarPort im.circuits[p]) ≠ min 7 (recFarPort im.circuits[q])) →
    im.instanceValue ≠ 0 →
    ∃ t, exec .close s = .next t ∧
      t.cfg.ack = true ∧ t.cfg.fault = 0 ∧ t.image = clampImage s.image ∧ t.changes = ⟨[], false, false⟩ ∧
      t.ctl = { s.ctl with station := .quiet, quiet := some (s.after 2500000), sequence := 0 } ∧
      (∀ p : Fin 8, let r := t.setting p
        (t.port p).rx = (s.port p).rx ∧ (t.port p).counts = CircuitCounters.zero ∧
        (t.port p).asm = ⟨false, none, 0⟩ ∧ (t.port p).tx.store = [] ∧ (t.port p).engine.position = none ∧
        (recEnabled r = true →
          (t.port p).circuit = ⟨.wait, 0, (recMode r).configured, ⟨false, false, 0, false⟩, none, false, false,
            .none, none⟩ ∧ (t.port p).clk = ⟨0, 0, 0, 0, recN r⟩) ∧
        (recEnabled r = false → (t.port p).circuit.state = .off)) ∧
      (∀ st : Nat, (∃ r ∈ t.peers, r.station = st) ↔
        (∃ p : Fin 8, recEnabled s.image.circuits[p] = true ∧ recFarStation s.image.circuits[p] = st) ∨
        ∃ k : Fin 4, cmdDirection s.image.commands[k] ≠ .disabled ∧ cmdFarStation s.image.commands[k] = st) ∧
      (t.peers.map (·.station)).Nodup ∧
      t.peers.map (·.station) = (enabled.map (fun p => recFarStation im.circuits[p]) ++
        used.map (fun k => cmdFarStation im.commands[k])).eraseDups ∧
      (∀ r ∈ t.peers, r.lanes = PerLane.both ⟨false, none, none, none, 0, [], none⟩ ∧
        ∀ k : Fin 4, r.commands.getLsbD k.val = true ↔
          cmdDirection im.commands[k] ≠ .disabled ∧ cmdFarStation im.commands[k] = r.station) ∧
      (∀ L : Lane, t.forwarder L = { s.forwarder L with counts := LaneCounters.zero } ∧
        t.mark L = ⟨.closed, none, none⟩) ∧
      (∀ i : Fin 62, t.dup[i] = none) ∧ t.stats = StationCounters.zero ∧ t.markTimer = none ∧ t.echoTimer = none ∧
      (∀ r ∈ t.peers, ∀ p : Fin 8, r.circuits.getLsbD p.val = true ↔
        recEnabled s.image.circuits[p] = true ∧ recFarStation s.image.circuits[p] = r.station) ∧
      (∀ k : Fin 4, let d := cmdDirection s.image.commands[k]
        (t.cmd k).co = false ∧
        (t.cmd k).outgoing = (if d = .send ∨ d = .both then some ⟨.idle, 0, .none, none, 0, none, none⟩ else none) ∧
        (t.cmd k).incoming = (if d = .receive ∨ d = .both then
          some ⟨.idle, none, none, none, none, none, none, none⟩ else none) ∧
        (t.cmd k).ci = (s.cmd k).ci ∧ (t.cmd k).tk = (s.cmd k).tk ∧
        ((s.cmd k).ci = false ∨ (d ≠ .send ∧ d ≠ .both) → (t.cmd k).qualified = false ∧ (t.cmd k).qualTimer = none) ∧
        ((s.cmd k).ci = true → d = .send ∨ d = .both →
          let ms := cmdQualification (t.cmdSetting k)
          (ms = 0 → (t.cmd k).qualified = true ∧ (t.cmd k).qualTimer = none) ∧
          (ms ≠ 0 → (t.cmd k).qualified = false ∧ (t.cmd k).qualTimer = some (s.after (ms * 10000))))) ∧
      Touches [.image, .peers, .ctl, .lanes, .dup, .stats, .marks, .markTimer, .echoTimer, .changes, .cfg, .ports,
        .cmds] s t
end

