-- ==== Sys2Proof/Laws/State.lean ====
section
/-! SUPPORT. The small lemmas of the state: what each basic update leaves of each field, and what reading a
component after an update gives. -/

namespace Sys2Proof.Machine

/-! ### A component read after it was written -/

@[simp] theorem PerLane.get_set_same {α : Type} (v : PerLane α) (L : Lane) (x : α) : (v.set L x).get L = x := by
  cases L <;> rfl
theorem PerLane.get_set_other {α : Type} (v : PerLane α) (L M : Lane) (x : α) (h : M ≠ L) :
    (v.set L x).get M = v.get M := by
  cases L <;> cases M <;> first | rfl | exact absurd rfl h
@[simp] theorem PerLane.get_map {α β : Type} (f : α → β) (v : PerLane α) (L : Lane) :
    (v.map f).get L = f (v.get L) := by cases L <;> rfl
@[simp] theorem PerLane.get_both {α : Type} (x : α) (L : Lane) : (PerLane.both x).get L = x := by cases L <;> rfl

@[simp] theorem State.port_modPort_same (s : State) (p : Fin 8) (f : Port → Port) :
    (s.modPort p f).port p = f (s.port p) := by simp [State.port, State.modPort]
theorem State.port_modPort_other (s : State) (p q : Fin 8) (f : Port → Port) (h : q ≠ p) :
    (s.modPort p f).port q = s.port q := by
  have : p.val ≠ q.val := fun e => h (Fin.ext e.symm)
  simp [State.port, State.modPort, this]
@[simp] theorem State.port_mapPorts (s : State) (f : Fin 8 → Port → Port) (p : Fin 8) :
    (s.mapPorts f).port p = f p (s.port p) := by simp [State.port, State.mapPorts]
@[simp] theorem State.cmd_modCmd_same (s : State) (k : Fin 4) (f : Command → Command) :
    (s.modCmd k f).cmd k = f (s.cmd k) := by simp [State.cmd, State.modCmd]
theorem State.cmd_modCmd_other (s : State) (k j : Fin 4) (f : Command → Command) (h : j ≠ k) :
    (s.modCmd k f).cmd j = s.cmd j := by
  have : k.val ≠ j.val := fun e => h (Fin.ext e.symm)
  simp [State.cmd, State.modCmd, this]
@[simp] theorem State.cmd_mapCmds (s : State) (f : Fin 4 → Command → Command) (k : Fin 4) :
    (s.mapCmds f).cmd k = f k (s.cmd k) := by simp [State.cmd, State.mapCmds]
@[simp] theorem State.forwarder_modForwarder_same (s : State) (L : Lane) (f : Forwarder → Forwarder) :
    (s.modForwarder L f).forwarder L = f (s.forwarder L) := by simp [State.forwarder, State.modForwarder]
theorem State.forwarder_modForwarder_other (s : State) (L M : Lane) (f : Forwarder → Forwarder) (h : M ≠ L) :
    (s.modForwarder L f).forwarder M = s.forwarder M := by
  simp [State.forwarder, State.modForwarder, PerLane.get_set_other _ _ _ _ h]
@[simp] theorem State.mark_modMark_same (s : State) (L : Lane) (f : MarkLane → MarkLane) :
    (s.modMark L f).mark L = f (s.mark L) := by simp [State.mark, State.modMark]
theorem State.mark_modMark_other (s : State) (L M : Lane) (f : MarkLane → MarkLane) (h : M ≠ L) :
    (s.modMark L f).mark M = s.mark M := by
  simp [State.mark, State.modMark, PerLane.get_set_other _ _ _ _ h]

/-! ### The fields that each update leaves as they are -/

@[simp] theorem State.modForwarder_rstLow (s : State) (L : Lane) (f : Forwarder → Forwarder) : (s.modForwarder L f).rstLow = s.rstLow := rfl
@[simp] theorem State.modForwarder_clock (s : State) (L : Lane) (f : Forwarder → Forwarder) : (s.modForwarder L f).clock = s.clock := rfl
@[simp] theorem State.modForwarder_ctl (s : State) (L : Lane) (f : Forwarder → Forwarder) : (s.modForwarder L f).ctl = s.ctl := rfl
@[simp] theorem State.modForwarder_dup (s : State) (L : Lane) (f : Forwarder → Forwarder) : (s.modForwarder L f).dup = s.dup := rfl
@[simp] theorem State.modForwarder_stats (s : State) (L : Lane) (f : Forwarder → Forwarder) : (s.modForwarder L f).stats = s.stats := rfl
@[simp] theorem State.modForwarder_marks (s : State) (L : Lane) (f : Forwarder → Forwarder) : (s.modForwarder L f).marks = s.marks := rfl
@[simp] theorem State.modForwarder_markTimer (s : State) (L : Lane) (f : Forwarder → Forwarder) : (s.modForwarder L f).markTimer = s.markTimer := rfl
@[simp] theorem State.modForwarder_echoTimer (s : State) (L : Lane) (f : Forwarder → Forwarder) : (s.modForwarder L f).echoTimer = s.echoTimer := rfl
@[simp] theorem State.modForwarder_peers (s : State) (L : Lane) (f : Forwarder → Forwarder) : (s.modForwarder L f).peers = s.peers := rfl
@[simp] theorem State.modForwarder_ports (s : State) (L : Lane) (f : Forwarder → Forwarder) : (s.modForwarder L f).ports = s.ports := rfl
@[simp] theorem State.modForwarder_cmds (s : State) (L : Lane) (f : Forwarder → Forwarder) : (s.modForwarder L f).cmds = s.cmds := rfl
@[simp] theorem State.modForwarder_block (s : State) (L : Lane) (f : Forwarder → Forwarder) : (s.modForwarder L f).block = s.block := rfl
@[simp] theorem State.modForwarder_changes (s : State) (L : Lane) (f : Forwarder → Forwarder) : (s.modForwarder L f).changes = s.changes := rfl
@[simp] theorem State.modForwarder_cfg (s : State) (L : Lane) (f : Forwarder → Forwarder) : (s.modForwarder L f).cfg = s.cfg := rfl
@[simp] theorem State.modForwarder_image (s : State) (L : Lane) (f : Forwarder → Forwarder) : (s.modForwarder L f).image = s.image := rfl
@[simp] theorem State.modForwarder_tieBreak (s : State) (L : Lane) (f : Forwarder → Forwarder) : (s.modForwarder L f).tieBreak = s.tieBreak := rfl
@[simp] theorem State.modForwarder_pending (s : State) (L : Lane) (f : Forwarder → Forwarder) : (s.modForwarder L f).pending = s.pending := rfl

@[simp] theorem State.countLane_rstLow (s : State) (L : Lane) (f : LaneCounters → LaneCounters) : (s.countLane L f).rstLow = s.rstLow := rfl
@[simp] theorem State.countLane_clock (s : State) (L : Lane) (f : LaneCounters → LaneCounters) : (s.countLane L f).clock = s.clock := rfl
@[simp] theorem State.countLane_ctl (s : State) (L : Lane) (f : LaneCounters → LaneCounters) : (s.countLane L f).ctl = s.ctl := rfl
@[simp] theorem State.countLane_dup (s : State) (L : Lane) (f : LaneCounters → LaneCounters) : (s.countLane L f).dup = s.dup := rfl
@[simp] theorem State.countLane_stats (s : State) (L : Lane) (f : LaneCounters → LaneCounters) : (s.countLane L f).stats = s.stats := rfl
@[simp] theorem State.countLane_marks (s : State) (L : Lane) (f : LaneCounters → LaneCounters) : (s.countLane L f).marks = s.marks := rfl
@[simp] theorem State.countLane_markTimer (s : State) (L : Lane) (f : LaneCounters → LaneCounters) : (s.countLane L f).markTimer = s.markTimer := rfl
@[simp] theorem State.countLane_echoTimer (s : State) (L : Lane) (f : LaneCounters → LaneCounters) : (s.countLane L f).echoTimer = s.echoTimer := rfl
@[simp] theorem State.countLane_peers (s : State) (L : Lane) (f : LaneCounters → LaneCounters) : (s.countLane L f).peers = s.peers := rfl
@[simp] theorem State.countLane_ports (s : State) (L : Lane) (f : LaneCounters → LaneCounters) : (s.countLane L f).ports = s.ports := rfl
@[simp] theorem State.countLane_cmds (s : State) (L : Lane) (f : LaneCounters → LaneCounters) : (s.countLane L f).cmds = s.cmds := rfl
@[simp] theorem State.countLane_block (s : State) (L : Lane) (f : LaneCounters → LaneCounters) : (s.countLane L f).block = s.block := rfl
@[simp] theorem State.countLane_changes (s : State) (L : Lane) (f : LaneCounters → LaneCounters) : (s.countLane L f).changes = s.changes := rfl
@[simp] theorem State.countLane_cfg (s : State) (L : Lane) (f : LaneCounters → LaneCounters) : (s.countLane L f).cfg = s.cfg := rfl
@[simp] theorem State.countLane_image (s : State) (L : Lane) (f : LaneCounters → LaneCounters) : (s.countLane L f).image = s.image := rfl
@[simp] theorem State.countLane_tieBreak (s : State) (L : Lane) (f : LaneCounters → LaneCounters) : (s.countLane L f).tieBreak = s.tieBreak := rfl
@[simp] theorem State.countLane_pending (s : State) (L : Lane) (f : LaneCounters → LaneCounters) : (s.countLane L f).pending = s.pending := rfl

@[simp] theorem State.modMark_rstLow (s : State) (L : Lane) (f : MarkLane → MarkLane) : (s.modMark L f).rstLow = s.rstLow := rfl
@[simp] theorem State.modMark_clock (s : State) (L : Lane) (f : MarkLane → MarkLane) : (s.modMark L f).clock = s.clock := rfl
@[simp] theorem State.modMark_ctl (s : State) (L : Lane) (f : MarkLane → MarkLane) : (s.modMark L f).ctl = s.ctl := rfl
@[simp] theorem State.modMark_lanes (s : State) (L : Lane) (f : MarkLane → MarkLane) : (s.modMark L f).lanes = s.lanes := rfl
@[simp] theorem State.modMark_dup (s : State) (L : Lane) (f : MarkLane → MarkLane) : (s.modMark L f).dup = s.dup := rfl
@[simp] theorem State.modMark_stats (s : State) (L : Lane) (f : MarkLane → MarkLane) : (s.modMark L f).stats = s.stats := rfl
@[simp] theorem State.modMark_markTimer (s : State) (L : Lane) (f : MarkLane → MarkLane) : (s.modMark L f).markTimer = s.markTimer := rfl
@[simp] theorem State.modMark_echoTimer (s : State) (L : Lane) (f : MarkLane → MarkLane) : (s.modMark L f).echoTimer = s.echoTimer := rfl
@[simp] theorem State.modMark_peers (s : State) (L : Lane) (f : MarkLane → MarkLane) : (s.modMark L f).peers = s.peers := rfl
@[simp] theorem State.modMark_ports (s : State) (L : Lane) (f : MarkLane → MarkLane) : (s.modMark L f).ports = s.ports := rfl
@[simp] theorem State.modMark_cmds (s : State) (L : Lane) (f : MarkLane → MarkLane) : (s.modMark L f).cmds = s.cmds := rfl
@[simp] theorem State.modMark_block (s : State) (L : Lane) (f : MarkLane → MarkLane) : (s.modMark L f).block = s.block := rfl
@[simp] theorem State.modMark_changes (s : State) (L : Lane) (f : MarkLane → MarkLane) : (s.modMark L f).changes = s.changes := rfl
@[simp] theorem State.modMark_cfg (s : State) (L : Lane) (f : MarkLane → MarkLane) : (s.modMark L f).cfg = s.cfg := rfl
@[simp] theorem State.modMark_image (s : State) (L : Lane) (f : MarkLane → MarkLane) : (s.modMark L f).image = s.image := rfl
@[simp] theorem State.modMark_tieBreak (s : State) (L : Lane) (f : MarkLane → MarkLane) : (s.modMark L f).tieBreak = s.tieBreak := rfl
@[simp] theorem State.modMark_pending (s : State) (L : Lane) (f : MarkLane → MarkLane) : (s.modMark L f).pending = s.pending := rfl

@[simp] theorem State.modPort_rstLow (s : State) (p : Fin 8) (f : Port → Port) : (s.modPort p f).rstLow = s.rstLow := rfl
@[simp] theorem State.modPort_clock (s : State) (p : Fin 8) (f : Port → Port) : (s.modPort p f).clock = s.clock := rfl
@[simp] theorem State.modPort_ctl (s : State) (p : Fin 8) (f : Port → Port) : (s.modPort p f).ctl = s.ctl := rfl
@[simp] theorem State.modPort_lanes (s : State) (p : Fin 8) (f : Port → Port) : (s.modPort p f).lanes = s.lanes := rfl
@[simp] theorem State.modPort_dup (s : State) (p : Fin 8) (f : Port → Port) : (s.modPort p f).dup = s.dup := rfl
@[simp] theorem State.modPort_stats (s : State) (p : Fin 8) (f : Port → Port) : (s.modPort p f).stats = s.stats := rfl
@[simp] theorem State.modPort_marks (s : State) (p : Fin 8) (f : Port → Port) : (s.modPort p f).marks = s.marks := rfl
@[simp] theorem State.modPort_markTimer (s : State) (p : Fin 8) (f : Port → Port) : (s.modPort p f).markTimer = s.markTimer := rfl
@[simp] theorem State.modPort_echoTimer (s : State) (p : Fin 8) (f : Port → Port) : (s.modPort p f).echoTimer = s.echoTimer := rfl
@[simp] theorem State.modPort_peers (s : State) (p : Fin 8) (f : Port → Port) : (s.modPort p f).peers = s.peers := rfl
@[simp] theorem State.modPort_cmds (s : State) (p : Fin 8) (f : Port → Port) : (s.modPort p f).cmds = s.cmds := rfl
@[simp] theorem State.modPort_block (s : State) (p : Fin 8) (f : Port → Port) : (s.modPort p f).block = s.block := rfl
@[simp] theorem State.modPort_changes (s : State) (p : Fin 8) (f : Port → Port) : (s.modPort p f).changes = s.changes := rfl
@[simp] theorem State.modPort_cfg (s : State) (p : Fin 8) (f : Port → Port) : (s.modPort p f).cfg = s.cfg := rfl
@[simp] theorem State.modPort_image (s : State) (p : Fin 8) (f : Port → Port) : (s.modPort p f).image = s.image := rfl
@[simp] theorem State.modPort_tieBreak (s : State) (p : Fin 8) (f : Port → Port) : (s.modPort p f).tieBreak = s.tieBreak := rfl
@[simp] theorem State.modPort_pending (s : State) (p : Fin 8) (f : Port → Port) : (s.modPort p f).pending = s.pending := rfl

@[simp] theorem State.countPort_rstLow (s : State) (p : Fin 8) (f : CircuitCounters → CircuitCounters) : (s.countPort p f).rstLow = s.rstLow := rfl
@[simp] theorem State.countPort_clock (s : State) (p : Fin 8) (f : CircuitCounters → CircuitCounters) : (s.countPort p f).clock = s.clock := rfl
@[simp] theorem State.countPort_ctl (s : State) (p : Fin 8) (f : CircuitCounters → CircuitCounters) : (s.countPort p f).ctl = s.ctl := rfl
@[simp] theorem State.countPort_lanes (s : State) (p : Fin 8) (f : CircuitCounters → CircuitCounters) : (s.countPort p f).lanes = s.lanes := rfl
@[simp] theorem State.countPort_dup (s : State) (p : Fin 8) (f : CircuitCounters → CircuitCounters) : (s.countPort p f).dup = s.dup := rfl
@[simp] theorem State.countPort_stats (s : State) (p : Fin 8) (f : CircuitCounters → CircuitCounters) : (s.countPort p f).stats = s.stats := rfl
@[simp] theorem State.countPort_marks (s : State) (p : Fin 8) (f : CircuitCounters → CircuitCounters) : (s.countPort p f).marks = s.marks := rfl
@[simp] theorem State.countPort_markTimer (s : State) (p : Fin 8) (f : CircuitCounters → CircuitCounters) : (s.countPort p f).markTimer = s.markTimer := rfl
@[simp] theorem State.countPort_echoTimer (s : State) (p : Fin 8) (f : CircuitCounters → CircuitCounters) : (s.countPort p f).echoTimer = s.echoTimer := rfl
@[simp] theorem State.countPort_peers (s : State) (p : Fin 8) (f : CircuitCounters → CircuitCounters) : (s.countPort p f).peers = s.peers := rfl
@[simp] theorem State.countPort_cmds (s : State) (p : Fin 8) (f : CircuitCounters → CircuitCounters) : (s.countPort p f).cmds = s.cmds := rfl
@[simp] theorem State.countPort_block (s : State) (p : Fin 8) (f : CircuitCounters → CircuitCounters) : (s.countPort p f).block = s.block := rfl
@[simp] theorem State.countPort_changes (s : State) (p : Fin 8) (f : CircuitCounters → CircuitCounters) : (s.countPort p f).changes = s.changes := rfl
@[simp] theorem State.countPort_cfg (s : State) (p : Fin 8) (f : CircuitCounters → CircuitCounters) : (s.countPort p f).cfg = s.cfg := rfl
@[simp] theorem State.countPort_image (s : State) (p : Fin 8) (f : CircuitCounters → CircuitCounters) : (s.countPort p f).image = s.image := rfl
@[simp] theorem State.countPort_tieBreak (s : State) (p : Fin 8) (f : CircuitCounters → CircuitCounters) : (s.countPort p f).tieBreak = s.tieBreak := rfl
@[simp] theorem State.countPort_pending (s : State) (p : Fin 8) (f : CircuitCounters → CircuitCounters) : (s.countPort p f).pending = s.pending := rfl

@[simp] theorem State.mapPorts_rstLow (s : State) (f : Fin 8 → Port → Port) : (s.mapPorts f).rstLow = s.rstLow := rfl
@[simp] theorem State.mapPorts_clock (s : State) (f : Fin 8 → Port → Port) : (s.mapPorts f).clock = s.clock := rfl
@[simp] theorem State.mapPorts_ctl (s : State) (f : Fin 8 → Port → Port) : (s.mapPorts f).ctl = s.ctl := rfl
@[simp] theorem State.mapPorts_lanes (s : State) (f : Fin 8 → Port → Port) : (s.mapPorts f).lanes = s.lanes := rfl
@[simp] theorem State.mapPorts_dup (s : State) (f : Fin 8 → Port → Port) : (s.mapPorts f).dup = s.dup := rfl
@[simp] theorem State.mapPorts_stats (s : State) (f : Fin 8 → Port → Port) : (s.mapPorts f).stats = s.stats := rfl
@[simp] theorem State.mapPorts_marks (s : State) (f : Fin 8 → Port → Port) : (s.mapPorts f).marks = s.marks := rfl
@[simp] theorem State.mapPorts_markTimer (s : State) (f : Fin 8 → Port → Port) : (s.mapPorts f).markTimer = s.markTimer := rfl
@[simp] theorem State.mapPorts_echoTimer (s : State) (f : Fin 8 → Port → Port) : (s.mapPorts f).echoTimer = s.echoTimer := rfl
@[simp] theorem State.mapPorts_peers (s : State) (f : Fin 8 → Port → Port) : (s.mapPorts f).peers = s.peers := rfl
@[simp] theorem State.mapPorts_cmds (s : State) (f : Fin 8 → Port → Port) : (s.mapPorts f).cmds = s.cmds := rfl
@[simp] theorem State.mapPorts_block (s : State) (f : Fin 8 → Port → Port) : (s.mapPorts f).block = s.block := rfl
@[simp] theorem State.mapPorts_changes (s : State) (f : Fin 8 → Port → Port) : (s.mapPorts f).changes = s.changes := rfl
@[simp] theorem State.mapPorts_cfg (s : State) (f : Fin 8 → Port → Port) : (s.mapPorts f).cfg = s.cfg := rfl
@[simp] theorem State.mapPorts_image (s : State) (f : Fin 8 → Port → Port) : (s.mapPorts f).image = s.image := rfl
@[simp] theorem State.mapPorts_tieBreak (s : State) (f : Fin 8 → Port → Port) : (s.mapPorts f).tieBreak = s.tieBreak := rfl
@[simp] theorem State.mapPorts_pending (s : State) (f : Fin 8 → Port → Port) : (s.mapPorts f).pending = s.pending := rfl

@[simp] theorem State.modCmd_rstLow (s : State) (k : Fin 4) (f : Command → Command) : (s.modCmd k f).rstLow = s.rstLow := rfl
@[simp] theorem State.modCmd_clock (s : State) (k : Fin 4) (f : Command → Command) : (s.modCmd k f).clock = s.clock := rfl
@[simp] theorem State.modCmd_ctl (s : State) (k : Fin 4) (f : Command → Command) : (s.modCmd k f).ctl = s.ctl := rfl
@[simp] theorem State.modCmd_lanes (s : State) (k : Fin 4) (f : Command → Command) : (s.modCmd k f).lanes = s.lanes := rfl
@[simp] theorem State.modCmd_dup (s : State) (k : Fin 4) (f : Command → Command) : (s.modCmd k f).dup = s.dup := rfl
@[simp] theorem State.modCmd_stats (s : State) (k : Fin 4) (f : Command → Command) : (s.modCmd k f).stats = s.stats := rfl
@[simp] theorem State.modCmd_marks (s : State) (k : Fin 4) (f : Command → Command) : (s.modCmd k f).marks = s.marks := rfl
@[simp] theorem State.modCmd_markTimer (s : State) (k : Fin 4) (f : Command → Command) : (s.modCmd k f).markTimer = s.markTimer := rfl
@[simp] theorem State.modCmd_echoTimer (s : State) (k : Fin 4) (f : Command → Command) : (s.modCmd k f).echoTimer = s.echoTimer := rfl
@[simp] theorem State.modCmd_peers (s : State) (k : Fin 4) (f : Command → Command) : (s.modCmd k f).peers = s.peers := rfl
@[simp] theorem State.modCmd_ports (s : State) (k : Fin 4) (f : Command → Command) : (s.modCmd k f).ports = s.ports := rfl
@[simp] theorem State.modCmd_block (s : State) (k : Fin 4) (f : Command → Command) : (s.modCmd k f).block = s.block := rfl
@[simp] theorem State.modCmd_changes (s : State) (k : Fin 4) (f : Command → Command) : (s.modCmd k f).changes = s.changes := rfl
@[simp] theorem State.modCmd_cfg (s : State) (k : Fin 4) (f : Command → Command) : (s.modCmd k f).cfg = s.cfg := rfl
@[simp] theorem State.modCmd_image (s : State) (k : Fin 4) (f : Command → Command) : (s.modCmd k f).image = s.image := rfl
@[simp] theorem State.modCmd_tieBreak (s : State) (k : Fin 4) (f : Command → Command) : (s.modCmd k f).tieBreak = s.tieBreak := rfl
@[simp] theorem State.modCmd_pending (s : State) (k : Fin 4) (f : Command → Command) : (s.modCmd k f).pending = s.pending := rfl

@[simp] theorem State.modOutgoing_rstLow (s : State) (k : Fin 4) (f : Outgoing → Outgoing) : (s.modOutgoing k f).rstLow = s.rstLow := rfl
@[simp] theorem State.modOutgoing_clock (s : State) (k : Fin 4) (f : Outgoing → Outgoing) : (s.modOutgoing k f).clock = s.clock := rfl
@[simp] theorem State.modOutgoing_ctl (s : State) (k : Fin 4) (f : Outgoing → Outgoing) : (s.modOutgoing k f).ctl = s.ctl := rfl
@[simp] theorem State.modOutgoing_lanes (s : State) (k : Fin 4) (f : Outgoing → Outgoing) : (s.modOutgoing k f).lanes = s.lanes := rfl
@[simp] theorem State.modOutgoing_dup (s : State) (k : Fin 4) (f : Outgoing → Outgoing) : (s.modOutgoing k f).dup = s.dup := rfl
@[simp] theorem State.modOutgoing_stats (s : State) (k : Fin 4) (f : Outgoing → Outgoing) : (s.modOutgoing k f).stats = s.stats := rfl
@[simp] theorem State.modOutgoing_marks (s : State) (k : Fin 4) (f : Outgoing → Outgoing) : (s.modOutgoing k f).marks = s.marks := rfl
@[simp] theorem State.modOutgoing_markTimer (s : State) (k : Fin 4) (f : Outgoing → Outgoing) : (s.modOutgoing k f).markTimer = s.markTimer := rfl
@[simp] theorem State.modOutgoing_echoTimer (s : State) (k : Fin 4) (f : Outgoing → Outgoing) : (s.modOutgoing k f).echoTimer = s.echoTimer := rfl
@[simp] theorem State.modOutgoing_peers (s : State) (k : Fin 4) (f : Outgoing → Outgoing) : (s.modOutgoing k f).peers = s.peers := rfl
@[simp] theorem State.modOutgoing_ports (s : State) (k : Fin 4) (f : Outgoing → Outgoing) : (s.modOutgoing k f).ports = s.ports := rfl
@[simp] theorem State.modOutgoing_block (s : State) (k : Fin 4) (f : Outgoing → Outgoing) : (s.modOutgoing k f).block = s.block := rfl
@[simp] theorem State.modOutgoing_changes (s : State) (k : Fin 4) (f : Outgoing → Outgoing) : (s.modOutgoing k f).changes = s.changes := rfl
@[simp] theorem State.modOutgoing_cfg (s : State) (k : Fin 4) (f : Outgoing → Outgoing) : (s.modOutgoing k f).cfg = s.cfg := rfl
@[simp] theorem State.modOutgoing_image (s : State) (k : Fin 4) (f : Outgoing → Outgoing) : (s.modOutgoing k f).image = s.image := rfl
@[simp] theorem State.modOutgoing_tieBreak (s : State) (k : Fin 4) (f : Outgoing → Outgoing) : (s.modOutgoing k f).tieBreak = s.tieBreak := rfl
@[simp] theorem State.modOutgoing_pending (s : State) (k : Fin 4) (f : Outgoing → Outgoing) : (s.modOutgoing k f).pending = s.pending := rfl

@[simp] theorem State.modIncoming_rstLow (s : State) (k : Fin 4) (f : Incoming → Incoming) : (s.modIncoming k f).rstLow = s.rstLow := rfl
@[simp] theorem State.modIncoming_clock (s : State) (k : Fin 4) (f : Incoming → Incoming) : (s.modIncoming k f).clock = s.clock := rfl
@[simp] theorem State.modIncoming_ctl (s : State) (k : Fin 4) (f : Incoming → Incoming) : (s.modIncoming k f).ctl = s.ctl := rfl
@[simp] theorem State.modIncoming_lanes (s : State) (k : Fin 4) (f : Incoming → Incoming) : (s.modIncoming k f).lanes = s.lanes := rfl
@[simp] theorem State.modIncoming_dup (s : State) (k : Fin 4) (f : Incoming → Incoming) : (s.modIncoming k f).dup = s.dup := rfl
@[simp] theorem State.modIncoming_stats (s : State) (k : Fin 4) (f : Incoming → Incoming) : (s.modIncoming k f).stats = s.stats := rfl
@[simp] theorem State.modIncoming_marks (s : State) (k : Fin 4) (f : Incoming → Incoming) : (s.modIncoming k f).marks = s.marks := rfl
@[simp] theorem State.modIncoming_markTimer (s : State) (k : Fin 4) (f : Incoming → Incoming) : (s.modIncoming k f).markTimer = s.markTimer := rfl
@[simp] theorem State.modIncoming_echoTimer (s : State) (k : Fin 4) (f : Incoming → Incoming) : (s.modIncoming k f).echoTimer = s.echoTimer := rfl
@[simp] theorem State.modIncoming_peers (s : State) (k : Fin 4) (f : Incoming → Incoming) : (s.modIncoming k f).peers = s.peers := rfl
@[simp] theorem State.modIncoming_ports (s : State) (k : Fin 4) (f : Incoming → Incoming) : (s.modIncoming k f).ports = s.ports := rfl
@[simp] theorem State.modIncoming_block (s : State) (k : Fin 4) (f : Incoming → Incoming) : (s.modIncoming k f).block = s.block := rfl
@[simp] theorem State.modIncoming_changes (s : State) (k : Fin 4) (f : Incoming → Incoming) : (s.modIncoming k f).changes = s.changes := rfl
@[simp] theorem State.modIncoming_cfg (s : State) (k : Fin 4) (f : Incoming → Incoming) : (s.modIncoming k f).cfg = s.cfg := rfl
@[simp] theorem State.modIncoming_image (s : State) (k : Fin 4) (f : Incoming → Incoming) : (s.modIncoming k f).image = s.image := rfl
@[simp] theorem State.modIncoming_tieBreak (s : State) (k : Fin 4) (f : Incoming → Incoming) : (s.modIncoming k f).tieBreak = s.tieBreak := rfl
@[simp] theorem State.modIncoming_pending (s : State) (k : Fin 4) (f : Incoming → Incoming) : (s.modIncoming k f).pending = s.pending := rfl

@[simp] theorem State.mapCmds_rstLow (s : State) (f : Fin 4 → Command → Command) : (s.mapCmds f).rstLow = s.rstLow := rfl
@[simp] theorem State.mapCmds_clock (s : State) (f : Fin 4 → Command → Command) : (s.mapCmds f).clock = s.clock := rfl
@[simp] theorem State.mapCmds_ctl (s : State) (f : Fin 4 → Command → Command) : (s.mapCmds f).ctl = s.ctl := rfl
@[simp] theorem State.mapCmds_lanes (s : State) (f : Fin 4 → Command → Command) : (s.mapCmds f).lanes = s.lanes := rfl
@[simp] theorem State.mapCmds_dup (s : State) (f : Fin 4 → Command → Command) : (s.mapCmds f).dup = s.dup := rfl
@[simp] theorem State.mapCmds_stats (s : State) (f : Fin 4 → Command → Command) : (s.mapCmds f).stats = s.stats := rfl
@[simp] theorem State.mapCmds_marks (s : State) (f : Fin 4 → Command → Command) : (s.mapCmds f).marks = s.marks := rfl
@[simp] theorem State.mapCmds_markTimer (s : State) (f : Fin 4 → Command → Command) : (s.mapCmds f).markTimer = s.markTimer := rfl
@[simp] theorem State.mapCmds_echoTimer (s : State) (f : Fin 4 → Command → Command) : (s.mapCmds f).echoTimer = s.echoTimer := rfl
@[simp] theorem State.mapCmds_peers (s : State) (f : Fin 4 → Command → Command) : (s.mapCmds f).peers = s.peers := rfl
@[simp] theorem State.mapCmds_ports (s : State) (f : Fin 4 → Command → Command) : (s.mapCmds f).ports = s.ports := rfl
@[simp] theorem State.mapCmds_block (s : State) (f : Fin 4 → Command → Command) : (s.mapCmds f).block = s.block := rfl
@[simp] theorem State.mapCmds_changes (s : State) (f : Fin 4 → Command → Command) : (s.mapCmds f).changes = s.changes := rfl
@[simp] theorem State.mapCmds_cfg (s : State) (f : Fin 4 → Command → Command) : (s.mapCmds f).cfg = s.cfg := rfl
@[simp] theorem State.mapCmds_image (s : State) (f : Fin 4 → Command → Command) : (s.mapCmds f).image = s.image := rfl
@[simp] theorem State.mapCmds_tieBreak (s : State) (f : Fin 4 → Command → Command) : (s.mapCmds f).tieBreak = s.tieBreak := rfl
@[simp] theorem State.mapCmds_pending (s : State) (f : Fin 4 → Command → Command) : (s.mapCmds f).pending = s.pending := rfl

@[simp] theorem State.modPeer_rstLow (s : State) (i : Nat) (f : Peer → Peer) : (s.modPeer i f).rstLow = s.rstLow := rfl
@[simp] theorem State.modPeer_clock (s : State) (i : Nat) (f : Peer → Peer) : (s.modPeer i f).clock = s.clock := rfl
@[simp] theorem State.modPeer_ctl (s : State) (i : Nat) (f : Peer → Peer) : (s.modPeer i f).ctl = s.ctl := rfl
@[simp] theorem State.modPeer_lanes (s : State) (i : Nat) (f : Peer → Peer) : (s.modPeer i f).lanes = s.lanes := rfl
@[simp] theorem State.modPeer_dup (s : State) (i : Nat) (f : Peer → Peer) : (s.modPeer i f).dup = s.dup := rfl
@[simp] theorem State.modPeer_stats (s : State) (i : Nat) (f : Peer → Peer) : (s.modPeer i f).stats = s.stats := rfl
@[simp] theorem State.modPeer_marks (s : State) (i : Nat) (f : Peer → Peer) : (s.modPeer i f).marks = s.marks := rfl
@[simp] theorem State.modPeer_markTimer (s : State) (i : Nat) (f : Peer → Peer) : (s.modPeer i f).markTimer = s.markTimer := rfl
@[simp] theorem State.modPeer_echoTimer (s : State) (i : Nat) (f : Peer → Peer) : (s.modPeer i f).echoTimer = s.echoTimer := rfl
@[simp] theorem State.modPeer_ports (s : State) (i : Nat) (f : Peer → Peer) : (s.modPeer i f).ports = s.ports := rfl
@[simp] theorem State.modPeer_cmds (s : State) (i : Nat) (f : Peer → Peer) : (s.modPeer i f).cmds = s.cmds := rfl
@[simp] theorem State.modPeer_block (s : State) (i : Nat) (f : Peer → Peer) : (s.modPeer i f).block = s.block := rfl
@[simp] theorem State.modPeer_changes (s : State) (i : Nat) (f : Peer → Peer) : (s.modPeer i f).changes = s.changes := rfl
@[simp] theorem State.modPeer_cfg (s : State) (i : Nat) (f : Peer → Peer) : (s.modPeer i f).cfg = s.cfg := rfl
@[simp] theorem State.modPeer_image (s : State) (i : Nat) (f : Peer → Peer) : (s.modPeer i f).image = s.image := rfl
@[simp] theorem State.modPeer_tieBreak (s : State) (i : Nat) (f : Peer → Peer) : (s.modPeer i f).tieBreak = s.tieBreak := rfl
@[simp] theorem State.modPeer_pending (s : State) (i : Nat) (f : Peer → Peer) : (s.modPeer i f).pending = s.pending := rfl

@[simp] theorem State.modPeerLane_rstLow (s : State) (i : Nat) (L : Lane) (f : PeerLane → PeerLane) : (s.modPeerLane i L f).rstLow = s.rstLow := rfl
@[simp] theorem State.modPeerLane_clock (s : State) (i : Nat) (L : Lane) (f : PeerLane → PeerLane) : (s.modPeerLane i L f).clock = s.clock := rfl
@[simp] theorem State.modPeerLane_ctl (s : State) (i : Nat) (L : Lane) (f : PeerLane → PeerLane) : (s.modPeerLane i L f).ctl = s.ctl := rfl
@[simp] theorem State.modPeerLane_lanes (s : State) (i : Nat) (L : Lane) (f : PeerLane → PeerLane) : (s.modPeerLane i L f).lanes = s.lanes := rfl
@[simp] theorem State.modPeerLane_dup (s : State) (i : Nat) (L : Lane) (f : PeerLane → PeerLane) : (s.modPeerLane i L f).dup = s.dup := rfl
@[simp] theorem State.modPeerLane_stats (s : State) (i : Nat) (L : Lane) (f : PeerLane → PeerLane) : (s.modPeerLane i L f).stats = s.stats := rfl
@[simp] theorem State.modPeerLane_marks (s : State) (i : Nat) (L : Lane) (f : PeerLane → PeerLane) : (s.modPeerLane i L f).marks = s.marks := rfl
@[simp] theorem State.modPeerLane_markTimer (s : State) (i : Nat) (L : Lane) (f : PeerLane → PeerLane) : (s.modPeerLane i L f).markTimer = s.markTimer := rfl
@[simp] theorem State.modPeerLane_echoTimer (s : State) (i : Nat) (L : Lane) (f : PeerLane → PeerLane) : (s.modPeerLane i L f).echoTimer = s.echoTimer := rfl
@[simp] theorem State.modPeerLane_ports (s : State) (i : Nat) (L : Lane) (f : PeerLane → PeerLane) : (s.modPeerLane i L f).ports = s.ports := rfl
@[simp] theorem State.modPeerLane_cmds (s : State) (i : Nat) (L : Lane) (f : PeerLane → PeerLane) : (s.modPeerLane i L f).cmds = s.cmds := rfl
@[simp] theorem State.modPeerLane_block (s : State) (i : Nat) (L : Lane) (f : PeerLane → PeerLane) : (s.modPeerLane i L f).block = s.block := rfl
@[simp] theorem State.modPeerLane_changes (s : State) (i : Nat) (L : Lane) (f : PeerLane → PeerLane) : (s.modPeerLane i L f).changes = s.changes := rfl
@[simp] theorem State.modPeerLane_cfg (s : State) (i : Nat) (L : Lane) (f : PeerLane → PeerLane) : (s.modPeerLane i L f).cfg = s.cfg := rfl
@[simp] theorem State.modPeerLane_image (s : State) (i : Nat) (L : Lane) (f : PeerLane → PeerLane) : (s.modPeerLane i L f).image = s.image := rfl
@[simp] theorem State.modPeerLane_tieBreak (s : State) (i : Nat) (L : Lane) (f : PeerLane → PeerLane) : (s.modPeerLane i L f).tieBreak = s.tieBreak := rfl
@[simp] theorem State.modPeerLane_pending (s : State) (i : Nat) (L : Lane) (f : PeerLane → PeerLane) : (s.modPeerLane i L f).pending = s.pending := rfl

@[simp] theorem State.modStats_rstLow (s : State) (f : StationCounters → StationCounters) : (s.modStats f).rstLow = s.rstLow := rfl
@[simp] theorem State.modStats_clock (s : State) (f : StationCounters → StationCounters) : (s.modStats f).clock = s.clock := rfl
@[simp] theorem State.modStats_ctl (s : State) (f : StationCounters → StationCounters) : (s.modStats f).ctl = s.ctl := rfl
@[simp] theorem State.modStats_lanes (s : State) (f : StationCounters → StationCounters) : (s.modStats f).lanes = s.lanes := rfl
@[simp] theorem State.modStats_dup (s : State) (f : StationCounters → StationCounters) : (s.modStats f).dup = s.dup := rfl
@[simp] theorem State.modStats_marks (s : State) (f : StationCounters → StationCounters) : (s.modStats f).marks = s.marks := rfl
@[simp] theorem State.modStats_markTimer (s : State) (f : StationCounters → StationCounters) : (s.modStats f).markTimer = s.markTimer := rfl
@[simp] theorem State.modStats_echoTimer (s : State) (f : StationCounters → StationCounters) : (s.modStats f).echoTimer = s.echoTimer := rfl
@[simp] theorem State.modStats_peers (s : State) (f : StationCounters → StationCounters) : (s.modStats f).peers = s.peers := rfl
@[simp] theorem State.modStats_ports (s : State) (f : StationCounters → StationCounters) : (s.modStats f).ports = s.ports := rfl
@[simp] theorem State.modStats_cmds (s : State) (f : StationCounters → StationCounters) : (s.modStats f).cmds = s.cmds := rfl
@[simp] theorem State.modStats_block (s : State) (f : StationCounters → StationCounters) : (s.modStats f).block = s.block := rfl
@[simp] theorem State.modStats_changes (s : State) (f : StationCounters → StationCounters) : (s.modStats f).changes = s.changes := rfl
@[simp] theorem State.modStats_cfg (s : State) (f : StationCounters → StationCounters) : (s.modStats f).cfg = s.cfg := rfl
@[simp] theorem State.modStats_image (s : State) (f : StationCounters → StationCounters) : (s.modStats f).image = s.image := rfl
@[simp] theorem State.modStats_tieBreak (s : State) (f : StationCounters → StationCounters) : (s.modStats f).tieBreak = s.tieBreak := rfl
@[simp] theorem State.modStats_pending (s : State) (f : StationCounters → StationCounters) : (s.modStats f).pending = s.pending := rfl

@[simp] theorem State.pushChange_rstLow (s : State) (c : Change) : (s.pushChange c).rstLow = s.rstLow := by unfold State.pushChange; split <;> rfl
@[simp] theorem State.pushChange_clock (s : State) (c : Change) : (s.pushChange c).clock = s.clock := by unfold State.pushChange; split <;> rfl
@[simp] theorem State.pushChange_ctl (s : State) (c : Change) : (s.pushChange c).ctl = s.ctl := by unfold State.pushChange; split <;> rfl
@[simp] theorem State.pushChange_lanes (s : State) (c : Change) : (s.pushChange c).lanes = s.lanes := by unfold State.pushChange; split <;> rfl
@[simp] theorem State.pushChange_dup (s : State) (c : Change) : (s.pushChange c).dup = s.dup := by unfold State.pushChange; split <;> rfl
@[simp] theorem State.pushChange_stats (s : State) (c : Change) : (s.pushChange c).stats = s.stats := by unfold State.pushChange; split <;> rfl
@[simp] theorem State.pushChange_marks (s : State) (c : Change) : (s.pushChange c).marks = s.marks := by unfold State.pushChange; split <;> rfl
@[simp] theorem State.pushChange_markTimer (s : State) (c : Change) : (s.pushChange c).markTimer = s.markTimer := by unfold State.pushChange; split <;> rfl
@[simp] theorem State.pushChange_echoTimer (s : State) (c : Change) : (s.pushChange c).echoTimer = s.echoTimer := by unfold State.pushChange; split <;> rfl
@[simp] theorem State.pushChange_peers (s : State) (c : Change) : (s.pushChange c).peers = s.peers := by unfold State.pushChange; split <;> rfl
@[simp] theorem State.pushChange_ports (s : State) (c : Change) : (s.pushChange c).ports = s.ports := by unfold State.pushChange; split <;> rfl
@[simp] theorem State.pushChange_cmds (s : State) (c : Change) : (s.pushChange c).cmds = s.cmds := by unfold State.pushChange; split <;> rfl
@[simp] theorem State.pushChange_block (s : State) (c : Change) : (s.pushChange c).block = s.block := by unfold State.pushChange; split <;> rfl
@[simp] theorem State.pushChange_cfg (s : State) (c : Change) : (s.pushChange c).cfg = s.cfg := by unfold State.pushChange; split <;> rfl
@[simp] theorem State.pushChange_image (s : State) (c : Change) : (s.pushChange c).image = s.image := by unfold State.pushChange; split <;> rfl
@[simp] theorem State.pushChange_tieBreak (s : State) (c : Change) : (s.pushChange c).tieBreak = s.tieBreak := by unfold State.pushChange; split <;> rfl
@[simp] theorem State.pushChange_pending (s : State) (c : Change) : (s.pushChange c).pending = s.pending := by unfold State.pushChange; split <;> rfl

@[simp] theorem State.elapse_rstLow (s : State) (n : Nat) : (s.elapse n).rstLow = s.rstLow := rfl
@[simp] theorem State.elapse_ctl (s : State) (n : Nat) : (s.elapse n).ctl = s.ctl := rfl
@[simp] theorem State.elapse_lanes (s : State) (n : Nat) : (s.elapse n).lanes = s.lanes := rfl
@[simp] theorem State.elapse_dup (s : State) (n : Nat) : (s.elapse n).dup = s.dup := rfl
@[simp] theorem State.elapse_stats (s : State) (n : Nat) : (s.elapse n).stats = s.stats := rfl
@[simp] theorem State.elapse_marks (s : State) (n : Nat) : (s.elapse n).marks = s.marks := rfl
@[simp] theorem State.elapse_markTimer (s : State) (n : Nat) : (s.elapse n).markTimer = s.markTimer := rfl
@[simp] theorem State.elapse_echoTimer (s : State) (n : Nat) : (s.elapse n).echoTimer = s.echoTimer := rfl
@[simp] theorem State.elapse_peers (s : State) (n : Nat) : (s.elapse n).peers = s.peers := rfl
@[simp] theorem State.elapse_ports (s : State) (n : Nat) : (s.elapse n).ports = s.ports := rfl
@[simp] theorem State.elapse_cmds (s : State) (n : Nat) : (s.elapse n).cmds = s.cmds := rfl
@[simp] theorem State.elapse_block (s : State) (n : Nat) : (s.elapse n).block = s.block := rfl
@[simp] theorem State.elapse_changes (s : State) (n : Nat) : (s.elapse n).changes = s.changes := rfl
@[simp] theorem State.elapse_cfg (s : State) (n : Nat) : (s.elapse n).cfg = s.cfg := rfl
@[simp] theorem State.elapse_image (s : State) (n : Nat) : (s.elapse n).image = s.image := rfl
@[simp] theorem State.elapse_tieBreak (s : State) (n : Nat) : (s.elapse n).tieBreak = s.tieBreak := rfl
@[simp] theorem State.elapse_pending (s : State) (n : Nat) : (s.elapse n).pending = s.pending := rfl

@[simp] theorem State.elapseTicks_rstLow (s : State) (n : Nat) : (s.elapseTicks n).rstLow = s.rstLow := by unfold State.elapseTicks; split <;> rfl
@[simp] theorem State.elapseTicks_ctl (s : State) (n : Nat) : (s.elapseTicks n).ctl = s.ctl := by unfold State.elapseTicks; split <;> rfl
@[simp] theorem State.elapseTicks_lanes (s : State) (n : Nat) : (s.elapseTicks n).lanes = s.lanes := by unfold State.elapseTicks; split <;> rfl
@[simp] theorem State.elapseTicks_dup (s : State) (n : Nat) : (s.elapseTicks n).dup = s.dup := by unfold State.elapseTicks; split <;> rfl
@[simp] theorem State.elapseTicks_stats (s : State) (n : Nat) : (s.elapseTicks n).stats = s.stats := by unfold State.elapseTicks; split <;> rfl
@[simp] theorem State.elapseTicks_marks (s : State) (n : Nat) : (s.elapseTicks n).marks = s.marks := by unfold State.elapseTicks; split <;> rfl
@[simp] theorem State.elapseTicks_markTimer (s : State) (n : Nat) : (s.elapseTicks n).markTimer = s.markTimer := by unfold State.elapseTicks; split <;> rfl
@[simp] theorem State.elapseTicks_echoTimer (s : State) (n : Nat) : (s.elapseTicks n).echoTimer = s.echoTimer := by unfold State.elapseTicks; split <;> rfl
@[simp] theorem State.elapseTicks_peers (s : State) (n : Nat) : (s.elapseTicks n).peers = s.peers := by unfold State.elapseTicks; split <;> rfl
@[simp] theorem State.elapseTicks_ports (s : State) (n : Nat) : (s.elapseTicks n).ports = s.ports := by unfold State.elapseTicks; split <;> rfl
@[simp] theorem State.elapseTicks_cmds (s : State) (n : Nat) : (s.elapseTicks n).cmds = s.cmds := by unfold State.elapseTicks; split <;> rfl
@[simp] theorem State.elapseTicks_block (s : State) (n : Nat) : (s.elapseTicks n).block = s.block := by unfold State.elapseTicks; split <;> rfl
@[simp] theorem State.elapseTicks_changes (s : State) (n : Nat) : (s.elapseTicks n).changes = s.changes := by unfold State.elapseTicks; split <;> rfl
@[simp] theorem State.elapseTicks_cfg (s : State) (n : Nat) : (s.elapseTicks n).cfg = s.cfg := by unfold State.elapseTicks; split <;> rfl
@[simp] theorem State.elapseTicks_image (s : State) (n : Nat) : (s.elapseTicks n).image = s.image := by unfold State.elapseTicks; split <;> rfl
@[simp] theorem State.elapseTicks_tieBreak (s : State) (n : Nat) : (s.elapseTicks n).tieBreak = s.tieBreak := by unfold State.elapseTicks; split <;> rfl
@[simp] theorem State.elapseTicks_pending (s : State) (n : Nat) : (s.elapseTicks n).pending = s.pending := by unfold State.elapseTicks; split <;> rfl

@[simp] theorem State.reach_rstLow (s : State) (t : Time) : (s.reach t).rstLow = s.rstLow := by unfold State.reach; split <;> simp
@[simp] theorem State.reach_ctl (s : State) (t : Time) : (s.reach t).ctl = s.ctl := by unfold State.reach; split <;> simp
@[simp] theorem State.reach_lanes (s : State) (t : Time) : (s.reach t).lanes = s.lanes := by unfold State.reach; split <;> simp
@[simp] theorem State.reach_dup (s : State) (t : Time) : (s.reach t).dup = s.dup := by unfold State.reach; split <;> simp
@[simp] theorem State.reach_stats (s : State) (t : Time) : (s.reach t).stats = s.stats := by unfold State.reach; split <;> simp
@[simp] theorem State.reach_marks (s : State) (t : Time) : (s.reach t).marks = s.marks := by unfold State.reach; split <;> simp
@[simp] theorem State.reach_markTimer (s : State) (t : Time) : (s.reach t).markTimer = s.markTimer := by unfold State.reach; split <;> simp
@[simp] theorem State.reach_echoTimer (s : State) (t : Time) : (s.reach t).echoTimer = s.echoTimer := by unfold State.reach; split <;> simp
@[simp] theorem State.reach_peers (s : State) (t : Time) : (s.reach t).peers = s.peers := by unfold State.reach; split <;> simp
@[simp] theorem State.reach_ports (s : State) (t : Time) : (s.reach t).ports = s.ports := by unfold State.reach; split <;> simp
@[simp] theorem State.reach_cmds (s : State) (t : Time) : (s.reach t).cmds = s.cmds := by unfold State.reach; split <;> simp
@[simp] theorem State.reach_block (s : State) (t : Time) : (s.reach t).block = s.block := by unfold State.reach; split <;> simp
@[simp] theorem State.reach_changes (s : State) (t : Time) : (s.reach t).changes = s.changes := by unfold State.reach; split <;> simp
@[simp] theorem State.reach_cfg (s : State) (t : Time) : (s.reach t).cfg = s.cfg := by unfold State.reach; split <;> simp
@[simp] theorem State.reach_image (s : State) (t : Time) : (s.reach t).image = s.image := by unfold State.reach; split <;> simp
@[simp] theorem State.reach_tieBreak (s : State) (t : Time) : (s.reach t).tieBreak = s.tieBreak := by unfold State.reach; split <;> simp
@[simp] theorem State.reach_pending (s : State) (t : Time) : (s.reach t).pending = s.pending := by unfold State.reach; split <;> simp

@[simp] theorem State.setDup_rstLow (s : State) (n : Nat) (e : Option DupEntry) : (s.setDup n e).rstLow = s.rstLow := by unfold State.setDup; split <;> rfl
@[simp] theorem State.setDup_clock (s : State) (n : Nat) (e : Option DupEntry) : (s.setDup n e).clock = s.clock := by unfold State.setDup; split <;> rfl
@[simp] theorem State.setDup_ctl (s : State) (n : Nat) (e : Option DupEntry) : (s.setDup n e).ctl = s.ctl := by unfold State.setDup; split <;> rfl
@[simp] theorem State.setDup_lanes (s : State) (n : Nat) (e : Option DupEntry) : (s.setDup n e).lanes = s.lanes := by unfold State.setDup; split <;> rfl
@[simp] theorem State.setDup_stats (s : State) (n : Nat) (e : Option DupEntry) : (s.setDup n e).stats = s.stats := by unfold State.setDup; split <;> rfl
@[simp] theorem State.setDup_marks (s : State) (n : Nat) (e : Option DupEntry) : (s.setDup n e).marks = s.marks := by unfold State.setDup; split <;> rfl
@[simp] theorem State.setDup_markTimer (s : State) (n : Nat) (e : Option DupEntry) : (s.setDup n e).markTimer = s.markTimer := by unfold State.setDup; split <;> rfl
@[simp] theorem State.setDup_echoTimer (s : State) (n : Nat) (e : Option DupEntry) : (s.setDup n e).echoTimer = s.echoTimer := by unfold State.setDup; split <;> rfl
@[simp] theorem State.setDup_peers (s : State) (n : Nat) (e : Option DupEntry) : (s.setDup n e).peers = s.peers := by unfold State.setDup; split <;> rfl
@[simp] theorem State.setDup_ports (s : State) (n : Nat) (e : Option DupEntry) : (s.setDup n e).ports = s.ports := by unfold State.setDup; split <;> rfl
@[simp] theorem State.setDup_cmds (s : State) (n : Nat) (e : Option DupEntry) : (s.setDup n e).cmds = s.cmds := by unfold State.setDup; split <;> rfl
@[simp] theorem State.setDup_block (s : State) (n : Nat) (e : Option DupEntry) : (s.setDup n e).block = s.block := by unfold State.setDup; split <;> rfl
@[simp] theorem State.setDup_changes (s : State) (n : Nat) (e : Option DupEntry) : (s.setDup n e).changes = s.changes := by unfold State.setDup; split <;> rfl
@[simp] theorem State.setDup_cfg (s : State) (n : Nat) (e : Option DupEntry) : (s.setDup n e).cfg = s.cfg := by unfold State.setDup; split <;> rfl
@[simp] theorem State.setDup_image (s : State) (n : Nat) (e : Option DupEntry) : (s.setDup n e).image = s.image := by unfold State.setDup; split <;> rfl
@[simp] theorem State.setDup_tieBreak (s : State) (n : Nat) (e : Option DupEntry) : (s.setDup n e).tieBreak = s.tieBreak := by unfold State.setDup; split <;> rfl
@[simp] theorem State.setDup_pending (s : State) (n : Nat) (e : Option DupEntry) : (s.setDup n e).pending = s.pending := by unfold State.setDup; split <;> rfl

/-! ### Readings that follow from the fields -/

theorem State.port_of_ports {s t : State} (h : t.ports = s.ports) (p : Fin 8) : t.port p = s.port p := by
  simp [State.port, h]
theorem State.cmd_of_cmds {s t : State} (h : t.cmds = s.cmds) (k : Fin 4) : t.cmd k = s.cmd k := by
  simp [State.cmd, h]
theorem State.forwarder_of_lanes {s t : State} (h : t.lanes = s.lanes) (L : Lane) :
    t.forwarder L = s.forwarder L := by simp [State.forwarder, h]

end Sys2Proof.Machine
end

