-- ==== Sys2Proof/Laws/Frames.lean ====
section
/-! SUPPORT. The frame of every shared operation: which parts of the state it can change, said once.  A proof
that something is left alone cites the operation's `touches` lemma and does not unfold the operation. -/

namespace Sys2Proof.Safety

open Sys2Proof.Machine

/-! ### The calculus of frames -/

theorem Part.same_refl (x : Part) (s : State) : x.same s s := by cases x <;> rfl

theorem Touches.refl (P : List Part) (s : State) : Touches P s s := fun x _ => x.same_refl s

theorem Touches.trans {P : List Part} {s t u : State} (h : Touches P s t) (k : Touches P t u) :
    Touches P s u := by
  intro x hx
  have h1 := h x hx
  have h2 := k x hx
  cases x <;> exact Eq.trans h2 h1

theorem Touches.mono {P Q : List Part} {s t : State} (h : Touches P s t) (sub : ∀ x ∈ P, x ∈ Q) :
    Touches Q s t := fun x hx => h x fun hp => hx (sub x hp)

theorem Touches.foldl {α : Type} {P : List Part} (f : State → α → State) (h : ∀ s a, Touches P s (f s a)) :
    ∀ (l : List α) (s : State), Touches P s (l.foldl f s)
  | [], s => .refl P s
  | a :: l, s => (h s a).trans (Touches.foldl f h l (f s a))

theorem Touches.inSomeOrder {α : Type} {P : List Part} (hP : Part.tieBreak ∈ P) (f : α → State → State)
    (h : ∀ a s, Touches P s (f a s)) (s : State) (l : List α) : Touches P s (s.inSomeOrder l f) := by
  have h0 : Touches P s { s with tieBreak := (arrange l.length s.tieBreak l).2 } := by
    intro x hx
    cases x <;> first | rfl | exact absurd hP hx
  exact h0.trans (Touches.foldl _ (fun s a => h a s) _ _)

theorem Touches.ite {P : List Part} {s a b : State} (c : Prop) [Decidable c] (ha : Touches P s a)
    (hb : Touches P s b) : Touches P s (if c then a else b) := by split <;> assumption

/-- A part that is not among those touched is unchanged. -/
theorem Touches.same {P : List Part} {s t : State} (h : Touches P s t) (x : Part) (hx : x ∉ P) : x.same s t := h x hx

end Sys2Proof.Safety

namespace Sys2Proof.Machine

open Sys2Proof.Safety

/-- What a grant can change: the lanes and the sending clock, and through a filed ECHO the peer records, the
circuits' figures and the change queue. -/
def grantParts : List Part := [.lanes, .clock, .peers, .ports, .changes, .tieBreak]
/-- What an origination can change. -/
def sendParts : List Part := .ctl :: grantParts
/-- What the command unit can change. -/
def commandParts : List Part := .cmds :: sendParts
/-- What a circuit controller can change. -/
def circuitParts : List Part := [.ports, .changes]

/-! ### Basic updates -/

theorem modForwarder_touches (s : State) (L : Lane) (f : Forwarder → Forwarder) :
    Touches [.lanes] s (s.modForwarder L f) := by
  intro x hx; cases x <;> first | rfl | simp at hx
theorem countLane_touches (s : State) (L : Lane) (f : LaneCounters → LaneCounters) :
    Touches [.lanes] s (s.countLane L f) := by
  intro x hx; cases x <;> first | rfl | simp at hx
theorem modMark_touches (s : State) (L : Lane) (f : MarkLane → MarkLane) : Touches [.marks] s (s.modMark L f) := by
  intro x hx; cases x <;> first | rfl | simp at hx
theorem modPort_touches (s : State) (p : Fin 8) (f : Port → Port) : Touches [.ports] s (s.modPort p f) := by
  intro x hx; cases x <;> first | rfl | simp at hx
theorem countPort_touches (s : State) (p : Fin 8) (f : CircuitCounters → CircuitCounters) :
    Touches [.ports] s (s.countPort p f) := by
  intro x hx; cases x <;> first | rfl | simp at hx
theorem mapPorts_touches (s : State) (f : Fin 8 → Port → Port) : Touches [.ports] s (s.mapPorts f) := by
  intro x hx; cases x <;> first | rfl | simp at hx
theorem modCmd_touches (s : State) (k : Fin 4) (f : Command → Command) : Touches [.cmds] s (s.modCmd k f) := by
  intro x hx; cases x <;> first | rfl | simp at hx
theorem modOutgoing_touches (s : State) (k : Fin 4) (f : Outgoing → Outgoing) :
    Touches [.cmds] s (s.modOutgoing k f) := by
  intro x hx; cases x <;> first | rfl | simp at hx
theorem modIncoming_touches (s : State) (k : Fin 4) (f : Incoming → Incoming) :
    Touches [.cmds] s (s.modIncoming k f) := by
  intro x hx; cases x <;> first | rfl | simp at hx
theorem mapCmds_touches (s : State) (f : Fin 4 → Command → Command) : Touches [.cmds] s (s.mapCmds f) := by
  intro x hx; cases x <;> first | rfl | simp at hx
theorem modPeerLane_touches (s : State) (i : Nat) (L : Lane) (f : PeerLane → PeerLane) :
    Touches [.peers] s (s.modPeerLane i L f) := by
  intro x hx; cases x <;> first | rfl | simp at hx
theorem modStats_touches (s : State) (f : StationCounters → StationCounters) :
    Touches [.stats] s (s.modStats f) := by
  intro x hx; cases x <;> first | rfl | simp at hx
theorem pushChange_touches (s : State) (c : Change) : Touches [.changes] s (s.pushChange c) := by
  unfold State.pushChange
  split <;> (intro x hx; cases x <;> first | rfl | simp at hx)
theorem elapse_touches (s : State) (n : Nat) : Touches [.clock] s (s.elapse n) := by
  intro x hx; cases x <;> first | rfl | simp at hx
theorem elapseTicks_touches (s : State) (n : Nat) : Touches [.clock] s (s.elapseTicks n) :=
  .ite _ (.refl _ _) (elapse_touches _ _)
theorem reach_touches (s : State) (t : Time) : Touches [.clock] s (s.reach t) :=
  .ite _ (.refl _ _) (elapseTicks_touches _ _)
theorem setDup_touches (s : State) (n : Nat) (e : Option DupEntry) : Touches [.dup] s (s.setDup n e) := by
  unfold State.setDup
  split <;> (intro x hx; cases x <;> first | rfl | simp at hx)

theorem onExpiry_touches {P : List Part} (hP : Part.clock ∈ P) (s : State) (t : Timer) (f : State → State)
    (h : ∀ s, Touches P s (f s)) : Touches P s (s.onExpiry t f) := by
  unfold State.onExpiry
  split
  · exact .refl _ _
  · exact ((reach_touches s _).mono (by simpa using hP)).trans (h _)

theorem running_touches {P : List Part} (s : State) (f : State → State) (h : Touches P s (f s)) :
    Touches P s (s.running f) := .ite _ (.refl _ _) h

/-! ### Delay unit (chapter 7) -/

theorem evaluateDelay_touches (p : Fin 8) (s : State) : Touches circuitParts s (evaluateDelay p s) := by
  unfold evaluateDelay
  refine .ite _ ?_ (.refl _ _)
  refine .ite _ ((modPort_touches _ _ _).mono (by decide)) ?_
  exact ((modPort_touches _ _ _).mono (by decide)).trans ((pushChange_touches _ _).mono (by decide))

theorem setSamples_touches (i : Nat) (L : Lane) (l : List Nat) (s : State) :
    Touches [.peers, .ports, .changes, .tieBreak] s (setSamples i L l s) := by
  unfold setSamples
  split
  · exact .refl _ _
  · have h0 := (modPeerLane_touches s i L
      (fun l' => { l' with samples := l, figure := pathFigure l })).mono (Q := [.peers, .ports, .changes, .tieBreak])
      (by decide)
    refine .ite _ h0 (h0.trans ?_)
    exact .inSomeOrder (by decide) _ (fun p s => (evaluateDelay_touches p s).mono (by decide)) _ _

theorem unmeasure_touches (i : Nat) (L : Lane) (s : State) :
    Touches [.peers, .ports, .changes, .tieBreak] s (unmeasure i L s) := by
  unfold unmeasure
  split
  · exact .refl _ _
  · exact .ite _ (setSamples_touches _ _ _ _) (.refl _ _)

theorem fileEcho_touches (X : Lane) (st : Nat) (t1 : Time) (s : State) :
    Touches [.peers, .ports, .changes, .tieBreak] s (fileEcho X st t1 s) := by
  unfold fileEcho
  split
  · exact .refl _ _
  split
  · exact .refl _ _
  split
  · exact (modPeerLane_touches _ _ _ _).mono (by decide)
  · exact ((modPeerLane_touches _ _ _ _).mono (by decide)).trans (unmeasure_touches _ _ _)

/-! ### Ring lanes (chapter 1) -/

theorem startSending_touches (L : Lane) (f : Octets) (s : State) : Touches [.lanes, .clock] s (startSending L f s) := by
  intro x hx; cases x <;> first | rfl | simp at hx

theorem grant_touches (L : Lane) (s : State) : Touches grantParts s (grant L s) := by
  unfold grant
  split
  · exact .refl _ _
  split
  · exact .refl _ _
  · have h0 := fun f => (modForwarder_touches s L f).mono (Q := grantParts) (by decide)
    refine .ite _ (.ite _ ?_ ?_) ?_
    · exact ((h0 _).trans ((startSending_touches _ _ _).mono (by decide))).trans
        ((fileEcho_touches _ _ _ _).mono (by decide))
    · exact (h0 _).trans ((startSending_touches _ _ _).mono (by decide))
    · exact (h0 _).trans ((startSending_touches _ _ _).mono (by decide))

theorem complete_touches (L : Lane) (s : State) : Touches grantParts s (complete L s) :=
  ((modForwarder_touches s L _).mono (by decide)).trans (grant_touches _ _)

theorem joinTransit_touches (L : Lane) (f : Octets) (s : State) : Touches grantParts s (joinTransit L f s) :=
  .ite _ (((modForwarder_touches s L _).mono (by decide)).trans (grant_touches _ _))
    ((countLane_touches _ _ _).mono (by decide))

theorem offer_touches (f : Octets) (L : Lane) (s : State) : Touches grantParts s (offer f L s) := by
  unfold offer
  refine .ite _ (((modForwarder_touches s L _).mono (by decide)).trans (grant_touches _ _)) ?_
  split
  · exact ((modForwarder_touches s L _).mono (by decide)).trans (grant_touches _ _)
  · exact (countLane_touches _ _ _).mono (by decide)

theorem ctl_touches (s : State) (c : Controller) : Touches [.ctl] s { s with ctl := c } := by
  intro x hx; cases x <;> first | rfl | simp at hx

theorem originate_touches (k : FrameKind) (dst : Nat) (body : Octets) (lanes : List Lane) (s : State) :
    Touches sendParts s (originate k dst body lanes s) :=
  .ite _ (((ctl_touches s _).mono (by decide)).trans
    (.foldl _ (fun s L => (offer_touches _ L s).mono (by decide)) _ _)) (.refl _ _)

/-- Outside RUN nothing is originated (R11). -/
theorem originate_outside_run (k : FrameKind) (dst : Nat) (body : Octets) (lanes : List Lane) (s : State)
    (h : s.ctl.station ≠ .run) : originate k dst body lanes s = s := by simp [originate, h]

/-! ### Circuit controller (chapter 5) -/

theorem toFlush_touches (p : Fin 8) (s : State) : Touches circuitParts s (toFlush p s) :=
  ((modPort_touches s p _).mono (by decide)).trans ((pushChange_touches _ _).mono (by decide))
theorem toWait_touches (p : Fin 8) (s : State) : Touches circuitParts s (toWait p s) :=
  ((modPort_touches s p _).mono (by decide)).trans ((pushChange_touches _ _).mono (by decide))
theorem saveHeld_touches (p : Fin 8) (s : State) : Touches circuitParts s (saveHeld p s) :=
  (modPort_touches s p _).mono (by decide)
theorem checkStarvation_touches (p : Fin 8) (s : State) : Touches circuitParts s (checkStarvation p s) :=
  .ite _ ((((countPort_touches s p _).mono (by decide)).trans (saveHeld_touches p _)).trans (toWait_touches p _))
    (.refl _ _)
theorem checkIdleRun_touches (p : Fin 8) (s : State) : Touches circuitParts s (checkIdleRun p s) :=
  .ite _ (toWait_touches p _) (.refl _ _)
theorem checkFlushEnd_touches (p : Fin 8) (s : State) : Touches circuitParts s (checkFlushEnd p s) :=
  .ite _ (((modPort_touches s p _).mono (by decide)).trans ((pushChange_touches _ _).mono (by decide))) (.refl _ _)
theorem enterPlay_touches (p : Fin 8) (s : State) : Touches circuitParts s (enterPlay p s) :=
  ((modPort_touches s p _).mono (by decide)).trans ((pushChange_touches _ _).mono (by decide))
theorem slip_touches (p : Fin 8) (s : State) : Touches circuitParts s (slip p s) := by
  unfold slip
  have h0 := fun f => (countPort_touches s p f).mono (Q := circuitParts) (by decide)
  exact (Touches.ite _ ((h0 _).trans (saveHeld_touches p _)) (h0 _)).trans (toFlush_touches p _)
theorem switchLane_touches (p : Fin 8) (L : Lane) (s : State) : Touches circuitParts s (switchLane p L s) :=
  (((modPort_touches s p _).mono (by decide)).trans ((pushChange_touches _ _).mono (by decide))).trans
    (evaluateDelay_touches p _)
theorem checkPresence_touches (p : Fin 8) (s : State) : Touches circuitParts s (checkPresence p s) := by
  unfold checkPresence
  split
  · exact .refl _ _
  · exact .ite _ (switchLane_touches _ _ _) (.refl _ _)
theorem checkTraffic_touches (p : Fin 8) (s : State) : Touches circuitParts s (checkTraffic p s) := by
  unfold checkTraffic
  split
  · exact .refl _ _
  · exact .ite _ (switchLane_touches _ _ _) (.refl _ _)
theorem closeTally_touches (p : Fin 8) (s : State) : Touches circuitParts s (closeTally p s) :=
  .ite _ (((modPort_touches s p _).mono (by decide)).trans (checkTraffic_touches p _)) (.refl _ _)
theorem presenceRevert_touches (p : Fin 8) (L : Lane) (b : Bool) (s : State) :
    Touches circuitParts s (presenceRevert p L b s) :=
  .ite _ ((modPort_touches s p _).mono (by decide)) (.refl _ _)
theorem presenceReport_touches (L : Lane) (b : Bool) (p : Fin 8) (s : State) :
    Touches circuitParts s (presenceReport L b p s) := by
  unfold presenceReport
  split
  · exact ((presenceRevert_touches p L b s).trans (checkPresence_touches p _)).trans (evaluateDelay_touches p _)
  · exact evaluateDelay_touches p _
  all_goals exact .refl _ _
theorem selectLaneAtRun_touches (p : Fin 8) (s : State) : Touches circuitParts s (selectLaneAtRun p s) :=
  .ite _ (((modPort_touches s p _).mono (by decide)).trans (checkPresence_touches p _)) (.refl _ _)
theorem requestLoop_touches (want : LoopState) (p : Fin 8) (s : State) :
    Touches circuitParts s (requestLoop want p s) :=
  .ite _ (.refl _ _) (((modPort_touches s p _).mono (by decide)).trans (toFlush_touches p _))

/-! ### Playout engine (chapter 4) -/

theorem sortCell_touches (p : Fin 8) (c : HeldCell) (s : State) : Touches circuitParts s (sortCell p c s) := by
  unfold sortCell
  split
  · exact (modPort_touches s p _).mono (by decide)
  · exact (modPort_touches s p _).mono (by decide)
  · exact (countPort_touches s p _).mono (by decide)
  · exact (countPort_touches s p _).mono (by decide)
  · exact slip_touches p s
theorem acceptCell_touches (p : Fin 8) (c : HeldCell) (s : State) : Touches circuitParts s (acceptCell p c s) := by
  unfold acceptCell
  split
  · exact .refl _ _
  · exact ((countPort_touches s p _).mono (by decide)).trans (toFlush_touches p _)
  · exact (countPort_touches s p _).mono (by decide)
  · exact sortCell_touches p c s
  · exact sortCell_touches p c s
theorem sendFill_touches (p : Fin 8) (s : State) : Touches circuitParts s (sendFill p s) :=
  (modPort_touches s p _).mono (by decide)
theorem measureFill_touches (p : Fin 8) (s : State) : Touches circuitParts s (measureFill p s) :=
  (modPort_touches s p _).mono (by decide)
theorem computeClock_touches (p : Fin 8) (s : State) : Touches circuitParts s (computeClock p s) :=
  (modPort_touches s p _).mono (by decide)
theorem playTake_touches (p : Fin 8) (s : State) : Touches circuitParts s (playTake p s) :=
  (modPort_touches s p _).mono (by decide)
theorem playInterval_touches (p : Fin 8) (s : State) : Touches circuitParts s (playInterval p s) :=
  (((playTake_touches p s).trans (checkStarvation_touches p _)).trans (measureFill_touches p _)).trans
    (computeClock_touches p _)
theorem prefillInterval_touches (p : Fin 8) (s : State) : Touches circuitParts s (prefillInterval p s) :=
  ((((sendFill_touches p s).trans ((modPort_touches _ p _).mono (by decide))).trans
    (checkIdleRun_touches p _)).trans (measureFill_touches p _)).trans (computeClock_touches p _)
theorem countFlush_touches (p : Fin 8) (s : State) : Touches circuitParts s (countFlush p s) :=
  ((modPort_touches s p _).mono (by decide)).trans (checkFlushEnd_touches p _)
theorem engineInterval_touches (p : Fin 8) (s : State) : Touches circuitParts s (engineInterval p s) := by
  have hf := ((sendFill_touches p s).trans (measureFill_touches p _)).trans (computeClock_touches p _)
  unfold engineInterval
  split
  · exact .refl _ _
  · exact hf
  · exact hf.trans (countFlush_touches p _)
  · exact .ite _ ((enterPlay_touches p s).trans (playInterval_touches p _)) (prefillInterval_touches p s)
  · exact playInterval_touches p s
theorem circuitInterval_touches (p : Fin 8) (s : State) : Touches circuitParts s (circuitInterval p s) :=
  (engineInterval_touches p s).trans (closeTally_touches p _)
theorem clock_touches (s : State) (c : Clock) : Touches [.clock] s { s with clock := c } := by
  intro x hx; cases x <;> first | rfl | simp at hx
theorem reachInterval_touches (s : State) : Touches [.clock] s (reachInterval s) :=
  (elapseTicks_touches s _).trans (clock_touches _ _)

/-! ### Tributary ports (chapter 3) -/

theorem sendCell_touches (p : Fin 8) (c : BitVec 16) (o : Octets) (b : Bool) (s : State) :
    Touches sendParts s (sendCell p c o b s) := originate_touches _ _ _ _ _
theorem completeCell_touches (p : Fin 8) (o : Octets) (b : Bool) (s : State) :
    Touches sendParts s (completeCell p o b s) := by
  unfold completeCell
  have h0 := fun f => (modPort_touches s p f).mono (Q := sendParts) (by decide)
  refine .ite _ ?_ ?_
  · exact (h0 _).trans ((acceptCell_touches p _ _).mono (by decide))
  · exact (h0 _).trans (sendCell_touches _ _ _ _ _)
theorem setCell_touches (p : Fin 8) (c : Option CellTiming) (s : State) : Touches sendParts s (setCell p c s) :=
  (modPort_touches s p _).mono (by decide)
theorem assemblerOnset_touches (p : Fin 8) (s : State) : Touches sendParts s (assemblerOnset p s) := by
  unfold assemblerOnset
  split
  · exact .refl _ _
  · exact .refl _ _
  · exact setCell_touches _ _ _
  · exact (setCell_touches p _ s).trans (completeCell_touches _ _ _ _)
theorem assemblerOctet_touches (p : Fin 8) (o : Byte) (s : State) : Touches sendParts s (assemblerOctet p o s) := by
  unfold assemblerOctet
  split
  · exact .refl _ _
  · exact .refl _ _
  · exact .ite _ ((setCell_touches p _ s).trans (completeCell_touches _ _ _ _)) (setCell_touches _ _ _)
theorem assemblerRegain_touches (p : Fin 8) (o : Byte) (s : State) :
    Touches sendParts s (assemblerRegain p o s) := by
  unfold assemblerRegain
  split
  · exact .refl _ _
  · exact assemblerOctet_touches _ _ _
  · exact (setCell_touches p _ s).trans (completeCell_touches _ _ _ _)
theorem loseLine_touches (p : Fin 8) (s : State) : Touches sendParts s (loseLine p s) := by
  unfold loseLine
  split
  · exact .refl _ _
  · exact ((modPort_touches s p _).mono (by decide)).trans (assemblerOnset_touches _ _)
theorem receiveOctet_touches (p : Fin 8) (o : Byte) (s : State) : Touches sendParts s (receiveOctet p o s) := by
  have h0 := fun f => (modPort_touches s p f).mono (Q := sendParts) (by decide)
  unfold receiveOctet
  dsimp only
  split
  · exact (h0 _).trans (assemblerOctet_touches _ _ _)
  · exact (h0 _).trans (assemblerRegain_touches _ _ _)
theorem gatherBit_touches (p : Fin 8) (b : Bool) (s : State) : Touches sendParts s (gatherBit p b s) :=
  .ite _ (receiveOctet_touches _ _ _) ((modPort_touches s p _).mono (by decide))
theorem reachEdge_touches (p : Fin 8) (s : State) : Touches [.clock] s (reachEdge p s) := by
  unfold reachEdge
  dsimp only
  refine Touches.trans ?_ (clock_touches _ _)
  split
  · exact .refl _ _
  · exact elapse_touches _ _

/-! ### Echoes (chapter 7) -/

theorem echoRound_touches (s : State) : Touches sendParts s (echoRound s) :=
  .foldl _ (fun _ _ => (originate_touches _ _ _ _ _).trans (originate_touches _ _ _ _ _)) _ _
theorem answerEcho_touches (L : Lane) (src dst : Nat) (b : Octets) (s : State) :
    Touches sendParts s (answerEcho L src dst b s) := .ite _ (originate_touches _ _ _ _ _) (.refl _ _)
theorem matchEcho_touches (L : Lane) (src : Nat) (b : Octets) (s : State) :
    Touches [.stats, .peers, .ports, .changes, .tieBreak] s (matchEcho L src b s) := by
  unfold matchEcho
  have stale := fun f => (modStats_touches s f).mono (Q := [.stats, .peers, .ports, .changes, .tieBreak]) (by decide)
  have one := fun i f => (modPeerLane_touches s i L f).mono (Q := [.stats, .peers, .ports, .changes, .tieBreak])
    (by decide)
  dsimp only
  split
  · exact stale _
  split
  · exact stale _
  refine .ite _ (.ite _ ?_ ?_) (stale _)
  · exact (one _ _).trans ((setSamples_touches _ _ _ _).mono (by decide))
  · exact (one _ _).trans ((modStats_touches _ _).mono (by decide))

/-! ### Protection commands (chapter 8) -/

theorem sendCmd_touches (k : Fin 4) (b : Bool) (a : BitVec 8) (s : State) :
    Touches commandParts s (sendCmd k b a s) := (originate_touches _ _ _ _ _).mono (by decide)
theorem sendCmdAck_touches (k : Fin 4) (a : BitVec 8) (c : Conditions) (s : State) :
    Touches commandParts s (sendCmdAck k a c s) := (originate_touches _ _ _ _ _).mono (by decide)
theorem takeAssertion_touches (k : Fin 4) (s : State) : Touches commandParts s (takeAssertion k s) := by
  unfold takeAssertion
  split
  · exact .refl _ _
  · exact (((modOutgoing_touches s k _).mono (by decide)).trans (sendCmd_touches _ _ _ _)).trans
      ((pushChange_touches _ _).mono (by decide))
theorem takeDeassertion_touches (k : Fin 4) (s : State) : Touches commandParts s (takeDeassertion k s) := by
  unfold takeDeassertion
  split
  · exact .refl _ _
  split
  · exact ((modOutgoing_touches s k _).mono (by decide)).trans (sendCmd_touches _ _ _ _)
  · exact .refl _ _
  · exact .refl _ _
theorem takeQualified_touches (k : Fin 4) (s : State) : Touches commandParts s (takeQualified k s) := by
  have h0 := fun f => (modCmd_touches s k f).mono (Q := commandParts) (by decide)
  unfold takeQualified
  exact .ite _ (.ite _ ((h0 _).trans (takeAssertion_touches _ _)) ((h0 _).trans (takeDeassertion_touches _ _))) (h0 _)
theorem judgePin_touches (k : Fin 4) (s : State) : Touches commandParts s (judgePin k s) := by
  have h0 := fun f => (modCmd_touches s k f).mono (Q := commandParts) (by decide)
  unfold judgePin
  exact .ite _ (.refl _ _) (.ite _ (h0 _) (.ite _ (takeQualified_touches _ _) (h0 _)))
theorem repeatCmd_touches (k : Fin 4) (s : State) : Touches commandParts s (repeatCmd k s) := by
  have h0 := fun f => (modOutgoing_touches s k f).mono (Q := commandParts) (by decide)
  unfold repeatCmd
  split
  · exact .refl _ _
  split
  · exact (h0 _).trans (sendCmd_touches _ _ _ _)
  · exact (h0 _).trans (sendCmd_touches _ _ _ _)
  · exact h0 _
theorem expireAnswer_touches (k : Fin 4) (s : State) : Touches commandParts s (expireAnswer k s) := by
  have h0 := fun f => (modOutgoing_touches s k f).mono (Q := commandParts) (by decide)
  unfold expireAnswer
  split
  · exact .refl _ _
  split
  · exact (h0 _).trans ((pushChange_touches _ _).mono (by decide))
  all_goals exact h0 _
theorem unexpectedCommand_touches (s : State) : Touches [.stats] s (unexpectedCommand s) := modStats_touches _ _
theorem receiveCmdAck_touches (src : Nat) (b : Octets) (s : State) :
    Touches [.cmds, .stats] s (receiveCmdAck src b s) := by
  have h0 := (unexpectedCommand_touches s).mono (Q := [.cmds, .stats]) (by decide)
  unfold receiveCmdAck
  split
  · exact h0
  split
  · exact h0
  refine .ite _ ?_ h0
  split
  · exact (modOutgoing_touches _ _ _).mono (by decide)
  · exact (modStats_touches _ _).mono (by decide)
theorem answerCycle_touches (k : Fin 4) (b : Bool) (s : State) : Touches commandParts s (answerCycle k b s) := by
  unfold answerCycle
  split
  · exact .refl _ _
  split
  · exact .refl _ _
  exact .ite _ (.refl _ _) (((modIncoming_touches s k _).mono (by decide)).trans (sendCmdAck_touches _ _ _ _))
theorem startCycle_touches (k : Fin 4) (a : BitVec 8) (b : Bool) (s : State) :
    Touches commandParts s (startCycle k a b s) := by
  have h0 := fun f => (modIncoming_touches s k f).mono (Q := commandParts) (by decide)
  unfold startCycle
  exact .ite _ ((h0 _).trans (answerCycle_touches _ _ _)) (h0 _)
theorem activate_touches (k : Fin 4) (a : BitVec 8) (s : State) : Touches commandParts s (activate k a s) := by
  unfold activate
  refine .ite _ (((modIncoming_touches s k _).mono (by decide)).trans (sendCmdAck_touches _ _ _ _)) ?_
  exact (((modCmd_touches s k _).mono (by decide)).trans (startCycle_touches _ _ _ _)).trans
    ((pushChange_touches _ _).mono (by decide))
theorem acceptOn_touches (k : Fin 4) (a : BitVec 8) (s : State) : Touches commandParts s (acceptOn k a s) := by
  have h0 := fun f => (modIncoming_touches s k f).mono (Q := commandParts) (by decide)
  unfold acceptOn
  split
  · exact .refl _ _
  dsimp only
  split
  · exact activate_touches _ _ _
  · exact .ite _ (h0 _) ((h0 _).trans (startCycle_touches _ _ _ _))
  · exact (h0 _).trans (startCycle_touches _ _ _ _)
  · exact .ite _ (h0 _) (activate_touches _ _ _)
theorem releaseToIdle_touches (k : Fin 4) (s : State) : Touches [.cmds] s (releaseToIdle k s) := modCmd_touches _ _ _
theorem beginRelease_touches (k : Fin 4) (s : State) : Touches [.cmds] s (beginRelease k s) := by
  unfold beginRelease
  split
  · exact .refl _ _
  · exact .ite _ (releaseToIdle_touches _ _) (modIncoming_touches _ _ _)
theorem endActivation_touches (k : Fin 4) (s : State) : Touches [.cmds] s (endActivation k s) := by
  unfold endActivation
  split
  · exact .refl _ _
  split
  · exact beginRelease_touches _ _
  · exact releaseToIdle_touches _ _
  · exact .refl _ _
  · exact .refl _ _
theorem receiveCmd_touches (src : Nat) (q : BitVec 16) (b : Octets) (s : State) :
    Touches (.stats :: commandParts) s (receiveCmd src q b s) := by
  have h0 := (unexpectedCommand_touches s).mono (Q := .stats :: commandParts) (by decide)
  have h1 := fun k f => (modIncoming_touches s k f).mono (Q := .stats :: commandParts) (by decide)
  unfold receiveCmd
  split
  · exact h0
  split
  · exact h0
  refine .ite _ (.ite _ ?_ ?_) h0
  · exact (h1 _ _).trans ((acceptOn_touches _ _ _).mono (by decide))
  · exact (h1 _ _).trans ((endActivation_touches _ _).mono (by decide))

/-! ### Peers and marks (chapter 2) -/

theorem restartAge_touches (n : Nat) (s : State) : Touches [.dup] s (restartAge n s) := by
  unfold restartAge
  split
  · exact .refl _ _
  · exact setDup_touches _ _ _
theorem openLane_touches (L : Lane) (s : State) : Touches [.marks, .changes] s (openLane L s) :=
  ((modMark_touches s L _).mono (by decide)).trans ((pushChange_touches _ _).mono (by decide))
theorem reportPresence_touches (r : Peer) (L : Lane) (b : Bool) (s : State) :
    Touches [.ports, .changes, .tieBreak] s (reportPresence r L b s) :=
  .inSomeOrder (by decide) _ (fun p s => (presenceReport_touches L b p s).mono (by decide)) _ _
theorem peerMark_touches (i : Nat) (L : Lane) (hop : Nat) (s : State) :
    Touches [.peers, .ports, .changes, .tieBreak] s (peerMark i L hop s) := by
  unfold peerMark
  split
  · exact .refl _ _
  have h0 := fun f => (modPeerLane_touches s i L f).mono (Q := [.peers, .ports, .changes, .tieBreak]) (by decide)
  dsimp only
  refine .ite _ (h0 _) (Touches.trans ?_ ((reportPresence_touches _ _ _ _).mono (by decide)))
  exact .ite _ (h0 _) ((h0 _).trans ((pushChange_touches _ _).mono (by decide)))
theorem loseLane_touches (i : Nat) (L : Lane) (s : State) :
    Touches [.peers, .ports, .changes, .tieBreak] s (loseLane i L s) := by
  unfold loseLane
  split
  · exact .refl _ _
  have h0 := fun f => (modPeerLane_touches s i L f).mono (Q := [.peers, .ports, .changes, .tieBreak]) (by decide)
  have h1 : ∀ f c b, Touches [.peers, .ports, .changes, .tieBreak] s
      (if b = true then s.modPeerLane i L f else (s.modPeerLane i L f).pushChange c) := fun f c b =>
    .ite _ (h0 _) ((h0 _).trans ((pushChange_touches _ _).mono (by decide)))
  exact .ite _ ((h1 _ _ _).trans ((reportPresence_touches _ _ _ _).mono (by decide))) (h1 _ _ _)

end Sys2Proof.Machine
end

