-- ==== Sys2Proof/Laws/Queues.lean ====
section
/-! SUPPORT. The queues of a lane forwarder: what the arbiter's choice and the removal of the newest ordinary
frame give, and what an offered frame, a grant and a joined copy make of a lane (section 1.4). -/

namespace Sys2Proof.Machine

open Sys2Proof.Safety

/-! ### The arbiter's choice and the displaced frame -/

theorem oldestUrgent_eq_none_iff : ∀ l : List Octets, oldestUrgent l = none ↔ ∀ g ∈ l, isUrgent g = false
  | [] => by simp [oldestUrgent]
  | f :: fs => by
    cases h : isUrgent f <;> cases e : oldestUrgent fs <;>
      simp [oldestUrgent, h, e, ← oldestUrgent_eq_none_iff fs]

theorem oldestUrgent_append (f : Octets) (newer : List Octets) (hf : isUrgent f = true) :
    ∀ older : List Octets, (∀ g ∈ older, isUrgent g = false) →
      oldestUrgent (older ++ f :: newer) = some (f, older ++ newer)
  | [], _ => by simp [oldestUrgent, hf]
  | g :: gs, h => by
    have hg : isUrgent g = false := h g (by simp)
    simp [oldestUrgent, hg, oldestUrgent_append f newer hf gs (fun x hx => h x (by simp [hx]))]

theorem dropNewestOrdinary_eq_none_iff : ∀ l : List Octets,
    dropNewestOrdinary l = none ↔ ∀ g ∈ l, isUrgent g = true
  | [] => by simp [dropNewestOrdinary]
  | f :: fs => by
    cases h : isUrgent f <;> cases e : dropNewestOrdinary fs <;>
      simp [dropNewestOrdinary, h, e, ← dropNewestOrdinary_eq_none_iff fs]

/-- What is dropped is an ordinary frame with urgent frames alone behind it. -/
theorem dropNewestOrdinary_eq_some : ∀ {l rest : List Octets}, dropNewestOrdinary l = some rest →
    ∃ older o newer, l = older ++ o :: newer ∧ isUrgent o = false ∧ (∀ g ∈ newer, isUrgent g = true) ∧
      rest = older ++ newer
  | [], rest, h => by simp [dropNewestOrdinary] at h
  | f :: fs, rest, h => by
    cases e : dropNewestOrdinary fs with
    | some r =>
      obtain ⟨older, o, newer, h1, h2, h3, h4⟩ := dropNewestOrdinary_eq_some e
      simp only [dropNewestOrdinary, e, Option.some.injEq] at h
      exact ⟨f :: older, o, newer, by simp [h1], h2, h3, by simp [← h, h4]⟩
    | none =>
      cases hf : isUrgent f
      · simp only [dropNewestOrdinary, e, hf, Bool.false_eq_true, if_false, Option.some.injEq] at h
        exact ⟨[], f, fs, by simp, hf, (dropNewestOrdinary_eq_none_iff fs).1 e, by simp [h]⟩
      · simp [dropNewestOrdinary, e, hf] at h

/-- The removal takes one frame. -/
theorem dropNewestOrdinary_length {l rest : List Octets} (h : dropNewestOrdinary l = some rest) :
    rest.length + 1 = l.length := by
  obtain ⟨older, o, newer, rfl, -, -, rfl⟩ := dropNewestOrdinary_eq_some h
  simp; omega

/-! ### Granting -/

theorem nextFrame_urgent (l : Forwarder) (older newer : List Octets) (f : Octets)
    (h : l.localQ = older ++ f :: newer) (ho : ∀ g ∈ older, isUrgent g = false) (hf : isUrgent f = true) :
    nextFrame l = some (true, f, { l with localQ := older ++ newer }) := by
  simp [nextFrame, h, oldestUrgent_append f newer hf older ho]

theorem nextFrame_transit (l : Forwarder) (f : Octets) (rest : List Octets)
    (h : ∀ g ∈ l.localQ, isUrgent g = false) (ht : l.transit = f :: rest) :
    nextFrame l = some (false, f, { l with transit := rest }) := by
  simp [nextFrame, (oldestUrgent_eq_none_iff _).2 h, ht]

theorem nextFrame_ordinary (l : Forwarder) (f : Octets) (rest : List Octets)
    (h : ∀ g ∈ l.localQ, isUrgent g = false) (ht : l.transit = []) (hl : l.localQ = f :: rest) :
    nextFrame l = some (true, f, { l with localQ := rest }) := by
  have h' := (oldestUrgent_eq_none_iff _).2 h
  rw [hl] at h'
  simp [nextFrame, h', ht, hl]

theorem nextFrame_empty (l : Forwarder) (ht : l.transit = []) (hl : l.localQ = []) : nextFrame l = none := by
  simp [nextFrame, ht, hl, oldestUrgent]

/-- Filing an ECHO leaves the lanes and the clock. -/
theorem fileEcho_lanes (X : Lane) (st : Nat) (t1 : Time) (s : State) : (fileEcho X st t1 s).lanes = s.lanes :=
  (fileEcho_touches X st t1 s).same .lanes (by decide)
theorem fileEcho_clock (X : Lane) (st : Nat) (t1 : Time) (s : State) : (fileEcho X st t1 s).clock = s.clock :=
  (fileEcho_touches X st t1 s).same .clock (by decide)

/-- A SENDING egress grants nothing. -/
theorem grant_sending (L : Lane) (s : State) (g : Octets) (h : (s.forwarder L).egress = .sending g) :
    grant L s = s := by simp [grant, h]

theorem grant_empty (L : Lane) (s : State) (ht : (s.forwarder L).transit = []) (hl : (s.forwarder L).localQ = []) :
    grant L s = s := by
  unfold grant; split
  · rfl
  · simp [nextFrame_empty _ ht hl]

/-- What a grant leaves on its lane: the chosen frame sent, an own one stamped and with its check sequence. -/
theorem grant_forwarder (L : Lane) (s : State) (own : Bool) (f : Octets) (rest : Forwarder)
    (hi : (s.forwarder L).egress = .idle) (hn : nextFrame (s.forwarder L) = some (own, f, rest)) :
    (grant L s).forwarder L =
      { rest with egress := .sending (if own then withCheck (stamped f s.now) else f) } := by
  unfold grant
  simp only [hi, hn]
  cases own <;> simp only [Bool.false_eq_true, if_false, if_true]
  · simp [startSending, State.forwarder, State.modForwarder]
  · split
    · rw [State.forwarder_of_lanes (fileEcho_lanes _ _ _ _)]
      simp [startSending, State.forwarder, State.modForwarder]
    · simp [startSending, State.forwarder, State.modForwarder]

/-- A grant takes the sending time of the granted frame, and no other time. -/
theorem grant_clock (L : Lane) (s : State) (own : Bool) (f : Octets) (rest : Forwarder)
    (hi : (s.forwarder L).egress = .idle) (hn : nextFrame (s.forwarder L) = some (own, f, rest)) :
    (grant L s).clock = { s.clock with
      sendLeft := s.clock.sendLeft.set L ((if own then withCheck (stamped f s.now) else f).length * 2) } := by
  unfold grant
  simp only [hi, hn]
  cases own <;> simp only [Bool.false_eq_true, if_false, if_true]
  · rfl
  · split
    · rw [fileEcho_clock]; rfl
    · rfl

/-- A grant acts on its own lane. -/
theorem grant_other (L M : Lane) (s : State) (h : M ≠ L) : (grant L s).forwarder M = s.forwarder M := by
  unfold grant
  split
  · rfl
  split
  · rfl
  · dsimp only
    split
    · split
      · rw [State.forwarder_of_lanes (fileEcho_lanes _ _ _ _)]
        simp [startSending, State.forwarder, State.modForwarder, PerLane.get_set_other _ _ _ _ h]
      · simp [startSending, State.forwarder, State.modForwarder, PerLane.get_set_other _ _ _ _ h]
    · simp [startSending, State.forwarder, State.modForwarder, PerLane.get_set_other _ _ _ _ h]

/-- A grant of a frame that is no own ECHO files nothing: it changes the lanes and the clock alone. -/
theorem grant_touches_lanes (L : Lane) (s : State)
    (h : ∀ f rest, nextFrame (s.forwarder L) = some (true, f, rest) → oct (stamped f s.now) 0 ≠ FrameKind.echo.code) :
    Touches [.lanes, .clock] s (grant L s) := by
  unfold grant
  split
  · exact .refl _ _
  split
  · exact .refl _ _
  · rename_i own f rest hn
    have h0 := (modForwarder_touches s L fun _ => rest).mono (Q := [.lanes, .clock]) (by decide)
    dsimp only
    split
    · rename_i ho
      subst ho
      have := h f rest hn
      rw [if_neg (by simpa using this)]
      exact h0.trans (startSending_touches _ _ _)
    · exact h0.trans (startSending_touches _ _ _)

/-! ### Offering and joining -/

/-- A stamp changes no frame but an ECHO and an ECHO-R, and leaves the kind of a frame of 9 octets or more. -/
theorem stamped_kind (f : Octets) (t : Time) (h : 9 ≤ f.length) : oct (stamped f t) 0 = oct f 0 := by
  have key : ∀ i, 9 ≤ i → oct (stampAt f i t) 0 = oct f 0 := by
    intro i hi
    match f, h, i, hi with
    | x :: xs, _, i + 1, _ => simp [oct, stampAt]
  unfold stamped
  split
  · exact key 9 (by omega)
  · split
    · exact key 17 (by omega)
    · rfl

theorem stamped_urgent (f : Octets) (t : Time) (h : isUrgent f = true) : stamped f t = f := by
  unfold isUrgent at h
  unfold stamped
  simp only [Bool.or_eq_true, beq_iff_eq] at h
  have h1 : (oct f 0 == FrameKind.echo.code) = false := by rcases h with h | h <;> rw [h] <;> rfl
  have h2 : (oct f 0 == FrameKind.echoR.code) = false := by rcases h with h | h <;> rw [h] <;> rfl
  simp [h1, h2]

/-- R12, R13, R15: an offered frame that is no ECHO, on a lane whose egress is settled. -/
theorem offer_spec (f : Octets) (L : Lane) (s : State) (hs : Settled s) (hk : oct f 0 ≠ FrameKind.echo.code)
    (hl : 9 ≤ f.length) :
    let t := offer f L s
    Offered f s.now (s.forwarder L) (t.forwarder L) ∧
    SendTime f s.now (s.forwarder L) (s.clock.sendLeft.get L) (t.clock.sendLeft.get L) ∧
    t.forwarder L.other = s.forwarder L.other ∧
    t.clock.sendLeft.get L.other = s.clock.sendLeft.get L.other ∧
    t.clock = { s.clock with sendLeft := t.clock.sendLeft } ∧ Touches [.lanes, .clock] s t := by
  have hLo : L.other ≠ L := by cases L <;> decide
  intro t
  cases he : (s.forwarder L).egress with
  | idle =>
    obtain ⟨htr, hlo⟩ := hs L he
    let s1 := s.modForwarder L fun l => { l with localQ := l.localQ ++ [f] }
    have ht : t = grant L s1 := by
      show offer f L s = _
      simp [offer, hlo, Config.localCapacity, s1]
    have hf1 : s1.forwarder L = { s.forwarder L with localQ := [f] } := by simp [s1, hlo]
    have hn : nextFrame (s1.forwarder L) = some (true, f, { s.forwarder L with localQ := [] }) := by
      cases hu : isUrgent f
      · rw [hf1]
        have := nextFrame_ordinary { s.forwarder L with localQ := [f] } f [] (by simp [hu]) htr rfl
        simpa using this
      · rw [hf1]
        have := nextFrame_urgent { s.forwarder L with localQ := [f] } [] [] f rfl (by simp) hu
        simpa using this
    have hi : (s1.forwarder L).egress = .idle := by rw [hf1]; exact he
    have hc := grant_clock L s1 true f _ hi hn
    have hg := grant_forwarder L s1 true f _ hi hn
    have hz : ({ s.forwarder L with localQ := [] } : Forwarder) = s.forwarder L := by
      rw [← hlo]
    have hT : Touches [.lanes, .clock] s1 (grant L s1) := by
      refine grant_touches_lanes L s1 fun g rest h => ?_
      rw [hn] at h
      simp only [Option.some.injEq, Prod.mk.injEq] at h
      rw [← h.2.1, stamped_kind _ _ hl]
      exact hk
    refine ⟨?_, ?_, ?_, ?_, ?_, ?_⟩
    · unfold Offered
      rw [if_pos he, ht, hg, hz]; rfl
    · unfold SendTime
      rw [if_pos he, ht, hc]; simp; rfl
    · rw [ht, grant_other _ _ _ hLo]
      exact State.forwarder_modForwarder_other _ _ _ _ hLo
    · rw [ht, hc]
      exact PerLane.get_set_other _ _ _ _ hLo
    · rw [ht, hc]; rfl
    · rw [ht]
      exact ((modForwarder_touches s L _).mono (by decide)).trans hT
  | sending g =>
    by_cases hc : (s.forwarder L).localQ.length < Config.localCapacity
    · have ht : t = s.modForwarder L fun l => { l with localQ := l.localQ ++ [f] } := by
        show offer f L s = _
        rw [offer, if_pos hc]
        exact grant_sending L _ g (by simp [he])
      refine ⟨?_, ?_, ?_, ?_, ?_, ?_⟩
      · have hc' : (s.forwarder L).localQ.length < 12 := hc
        simp [Offered, he, hc', ht]
      · simp [SendTime, he, ht]
      · rw [ht]; exact State.forwarder_modForwarder_other _ _ _ _ hLo
      · rw [ht]; rfl
      · rw [ht]; rfl
      · rw [ht]; exact (modForwarder_touches _ _ _).mono (by decide)
    · cases hd : (if isUrgent f then dropNewestOrdinary (s.forwarder L).localQ else none) with
      | some rest =>
        have ht : t = s.modForwarder L fun l =>
            { l with localQ := rest ++ [f], counts := { l.counts with localDrops := bump l.counts.localDrops } } := by
          show offer f L s = _
          rw [offer, if_neg hc, hd]
          exact grant_sending L _ g (by simp [he])
        cases hu : isUrgent f
        · simp [hu] at hd
        rw [hu, if_pos rfl] at hd
        obtain ⟨older, o, newer, h1, h2, h3, h4⟩ := dropNewestOrdinary_eq_some hd
        refine ⟨?_, ?_, ?_, ?_, ?_, ?_⟩
        · unfold Offered
          rw [if_neg (by simp [he]), if_neg (show ¬(s.forwarder L).localQ.length < 12 from hc), if_pos ⟨hu, o, by simp [h1], h2⟩]
          exact ⟨older, o, newer, h1, h2, h3, by rw [ht]; simp [h4]⟩
        · simp [SendTime, he, ht]
        · rw [ht]; exact State.forwarder_modForwarder_other _ _ _ _ hLo
        · rw [ht]; rfl
        · rw [ht]; rfl
        · rw [ht]; exact (modForwarder_touches _ _ _).mono (by decide)
      | none =>
        have ht : t = s.countLane L fun c => { c with localDrops := bump c.localDrops } := by
          show offer f L s = _
          rw [offer, if_neg hc, hd]
        have hn : ¬(isUrgent f = true ∧ ∃ g ∈ (s.forwarder L).localQ, isUrgent g = false) := by
          rintro ⟨hu, x, hx, hx'⟩
          rw [hu, if_pos rfl, dropNewestOrdinary_eq_none_iff] at hd
          simp [hd x hx] at hx'
        refine ⟨?_, ?_, ?_, ?_, ?_, ?_⟩
        · unfold Offered
          rw [if_neg (by simp [he]), if_neg (show ¬(s.forwarder L).localQ.length < 12 from hc), if_neg hn, ht]
          simp [State.countLane]
        · simp [SendTime, he, ht]
        · rw [ht]; exact State.forwarder_modForwarder_other _ _ _ _ hLo
        · rw [ht]; rfl
        · rw [ht]; rfl
        · rw [ht]; exact (countLane_touches _ _ _).mono (by decide)

/-- R8, R15: a forwarded copy that joins the transit queue of a lane whose egress is settled. -/
theorem joinTransit_spec (copy : Octets) (L : Lane) (s : State) (hs : Settled s) :
    let t := joinTransit L copy s
    Forwarded copy (s.forwarder L) (t.forwarder L) ∧
    t.clock.sendLeft.get L =
      (if (s.forwarder L).egress = .idle then copy.length * 2 else s.clock.sendLeft.get L) ∧
    t.forwarder L.other = s.forwarder L.other ∧
    t.clock.sendLeft.get L.other = s.clock.sendLeft.get L.other ∧
    t.clock = { s.clock with sendLeft := t.clock.sendLeft } ∧ Touches [.lanes, .clock] s t := by
  have hLo : L.other ≠ L := by cases L <;> decide
  intro t
  cases he : (s.forwarder L).egress with
  | idle =>
    obtain ⟨htr, hlo⟩ := hs L he
    let counted : LaneCounters :=
      { (s.forwarder L).counts with framesForwarded := bump (s.forwarder L).counts.framesForwarded }
    let s1 := s.modForwarder L fun l =>
      { l with transit := l.transit ++ [copy],
               counts := { l.counts with framesForwarded := bump l.counts.framesForwarded } }
    have ht : t = grant L s1 := by
      show joinTransit L copy s = _
      simp [joinTransit, htr, Config.transitCapacity, s1]
    have hf1 : s1.forwarder L = { s.forwarder L with transit := [copy], counts := counted } := by
      simp [s1, htr, counted]
    have hn : nextFrame (s1.forwarder L) =
        some (false, copy, { s.forwarder L with transit := [], counts := counted }) := by
      rw [hf1]
      have := nextFrame_transit { s.forwarder L with transit := [copy], counts := counted } copy []
        (by simp [hlo]) rfl
      simpa using this
    have hi : (s1.forwarder L).egress = .idle := by rw [hf1]; exact he
    have hc := grant_clock L s1 false copy _ hi hn
    have hg := grant_forwarder L s1 false copy _ hi hn
    have hz : ({ s.forwarder L with transit := [], counts := counted } : Forwarder) =
        { s.forwarder L with counts := counted } := by rw [← htr]
    have hT : Touches [.lanes, .clock] s1 (grant L s1) := by
      refine grant_touches_lanes L s1 fun g rest h => ?_
      rw [hn] at h
      simp at h
    refine ⟨?_, ?_, ?_, ?_, ?_, ?_⟩
    · unfold Forwarded
      simp only [if_pos he]
      rw [ht, hg, hz]; rfl
    · rw [if_pos rfl, ht, hc]; simp
    · rw [ht, grant_other _ _ _ hLo]
      exact State.forwarder_modForwarder_other _ _ _ _ hLo
    · rw [ht, hc]
      exact PerLane.get_set_other _ _ _ _ hLo
    · rw [ht, hc]; rfl
    · rw [ht]
      exact ((modForwarder_touches s L _).mono (by decide)).trans hT
  | sending g =>
    by_cases hc : (s.forwarder L).transit.length < Config.transitCapacity
    · have ht : t = s.modForwarder L fun l =>
          { l with transit := l.transit ++ [copy],
                   counts := { l.counts with framesForwarded := bump l.counts.framesForwarded } } := by
        show joinTransit L copy s = _
        rw [joinTransit, if_pos hc]
        exact grant_sending L _ g (by simp [he])
      refine ⟨?_, ?_, ?_, ?_, ?_, ?_⟩
      · have hc' : (s.forwarder L).transit.length < 16 := hc
        simp [Forwarded, he, hc', ht]
      · simp [ht]
      · rw [ht]; exact State.forwarder_modForwarder_other _ _ _ _ hLo
      · rw [ht]; rfl
      · rw [ht]; rfl
      · rw [ht]; exact (modForwarder_touches _ _ _).mono (by decide)
    · have ht : t = s.countLane L fun c => { c with transitDrops := bump c.transitDrops } := by
        show joinTransit L copy s = _
        rw [joinTransit, if_neg hc]
      refine ⟨?_, ?_, ?_, ?_, ?_, ?_⟩
      · have hc' : ¬(s.forwarder L).transit.length < 16 := hc
        simp [Forwarded, he, hc', ht, State.countLane]
      · simp [ht]
      · rw [ht]; exact State.forwarder_modForwarder_other _ _ _ _ hLo
      · rw [ht]; rfl
      · rw [ht]; rfl
      · rw [ht]; exact (countLane_touches _ _ _).mono (by decide)

/-- An offer leaves every lane's egress settled. -/
theorem offer_settled (f : Octets) (L : Lane) (s : State) (hs : Settled s) (hk : oct f 0 ≠ FrameKind.echo.code)
    (hl : 9 ≤ f.length) : Settled (offer f L s) := by
  obtain ⟨h1, -, h3, -⟩ := offer_spec f L s hs hk hl
  intro M hM
  by_cases e : M = L
  · subst e
    unfold Offered at h1
    split at h1
    · rw [h1] at hM; simp at hM
    · rename_i he
      split at h1
      · rw [h1] at hM; exact absurd hM he
      · split at h1
        · obtain ⟨_, _, _, -, -, -, h⟩ := h1
          rw [h] at hM; exact absurd hM he
        · rw [h1] at hM; exact absurd hM he
  · have : M = L.other := by cases M <;> cases L <;> first | rfl | exact absurd rfl e
    subst this
    rw [h3] at hM ⊢
    exact hs _ hM

end Sys2Proof.Machine
end

