-- ==== Sys2Proof/Laws/Circuits.lean ====
section
/-! SUPPORT. What the operations of one circuit leave alone: every other port, every part of the state but the
ports and the change queue, and the entries that the queue holds, behind which its own entries join. -/

namespace Sys2Proof.Safety

open Sys2Proof.Machine

/-! ### Entries of the change queue -/

/-- R166, R167: going from `s` to `t` entries may have joined the back of the queue, and the overflow flag may have
been set; a full queue takes none. -/
structure Grows (s t : State) : Prop where
  joins : ∃ more, t.changes.entries = s.changes.entries ++ more
  full : 32 ≤ s.changes.entries.length → t.changes.entries = s.changes.entries
  flag : s.changes.overflow = true → t.changes.overflow = true

theorem Grows.of_same {s t : State} (h : t.changes = s.changes) : Grows s t :=
  ⟨⟨[], by simp [h]⟩, fun _ => by rw [h], fun k => by rw [h]; exact k⟩

theorem Grows.refl (s : State) : Grows s s := .of_same rfl

theorem Grows.trans {s t u : State} (h : Grows s t) (k : Grows t u) : Grows s u := by
  obtain ⟨m, hm⟩ := h.joins
  obtain ⟨n, hn⟩ := k.joins
  refine ⟨⟨m ++ n, by rw [hn, hm, List.append_assoc]⟩, fun hl => ?_, fun hf => k.flag (h.flag hf)⟩
  rw [k.full (by rw [h.full hl]; exact hl), h.full hl]

theorem Grows.foldl {α : Type} (f : State → α → State) (h : ∀ s a, Grows s (f s a)) :
    ∀ (l : List α) (s : State), Grows s (l.foldl f s)
  | [], s => .refl s
  | a :: l, s => (h s a).trans (Grows.foldl f h l (f s a))

theorem Grows.inSomeOrder {α : Type} (f : α → State → State) (h : ∀ a s, Grows s (f a s)) (s : State) (l : List α) :
    Grows s (s.inSomeOrder l f) :=
  Grows.trans (t := { s with tieBreak := (arrange l.length s.tieBreak l).2 }) (.of_same rfl)
    (Grows.foldl (fun s a => f a s) (fun s a => h a s) _ _)

/-- R167: what an entry makes of the queue. -/
theorem pushChange_changes (s : State) (c : Change) : (s.pushChange c).changes = withEntry s.now c s.changes := by
  unfold State.pushChange withEntry Config.changeCapacity
  split <;> rfl

theorem pushChange_grows (s : State) (c : Change) : Grows s (s.pushChange c) := by
  have h := pushChange_changes s c
  unfold withEntry at h
  split at h
  · rename_i hl
    exact ⟨⟨_, by rw [h]⟩, fun k => by omega, fun k => by rw [h]; exact k⟩
  · exact ⟨⟨[], by rw [h]; simp⟩, fun _ => by rw [h], fun _ => by rw [h]⟩

/-- An entry is made, and what follows adds behind it. -/
theorem EntryMade.of_push {c : Change} {s s' t : State} (hc : s'.changes = s.changes) (hn : s'.clock = s.clock)
    (h : Grows (s'.pushChange c) t) : EntryMade c s t := by
  have hp := pushChange_changes s' c
  have hnow : s'.now = s.now := congrArg Clock.time hn
  rw [hc, hnow] at hp
  unfold EntryMade
  unfold withEntry at hp
  split
  · rename_i hl
    rw [if_pos hl] at hp
    obtain ⟨m, hm⟩ := h.joins
    exact ⟨m, by rw [hm, hp]; simp⟩
  · rename_i hl
    rw [if_neg hl] at hp
    have hf := h.full (by rw [hp]; simp; omega)
    have ho := h.flag (by rw [hp])
    exact ⟨by rw [hf, hp], ho⟩

/-! ### One port -/

theorem OtherPortsSame.refl (p : Fin 8) (s : State) : OtherPortsSame p s s := fun _ _ => rfl
theorem OtherPortsSame.trans {p : Fin 8} {s t u : State} (h : OtherPortsSame p s t) (k : OtherPortsSame p t u) :
    OtherPortsSame p s u := fun q hq => (k q hq).trans (h q hq)
theorem OtherPortsSame.of_ports {p : Fin 8} {s t : State} (h : t.ports = s.ports) : OtherPortsSame p s t :=
  fun q _ => State.port_of_ports h q

/-- Going from `s` to `t` only port `p` changes, and entries may join the change queue. -/
structure OnPort (p : Fin 8) (s t : State) : Prop where
  others : OtherPortsSame p s t
  grows : Grows s t
  touches : Touches circuitParts s t

theorem OnPort.refl (p : Fin 8) (s : State) : OnPort p s s := ⟨.refl p s, .refl s, .refl _ s⟩
theorem OnPort.trans {p : Fin 8} {s t u : State} (h : OnPort p s t) (k : OnPort p t u) : OnPort p s u :=
  ⟨h.others.trans k.others, h.grows.trans k.grows, h.touches.trans k.touches⟩
theorem OnPort.ite {p : Fin 8} {s a b : State} (c : Prop) [Decidable c] (ha : OnPort p s a) (hb : OnPort p s b) :
    OnPort p s (if c then a else b) := by split <;> assumption

theorem OtherCommandsSame.refl (k : Fin 4) (s : State) : OtherCommandsSame k s s := fun _ _ => rfl
theorem OtherCommandsSame.trans {k : Fin 4} {s t u : State} (h : OtherCommandsSame k s t)
    (g : OtherCommandsSame k t u) : OtherCommandsSame k s u := fun j hj => (g j hj).trans (h j hj)
theorem OtherCommandsSame.of_cmds {k : Fin 4} {s t : State} (h : t.cmds = s.cmds) : OtherCommandsSame k s t :=
  fun j _ => State.cmd_of_cmds h j
theorem modCmd_others (s : State) (k : Fin 4) (f : Command → Command) : OtherCommandsSame k s (s.modCmd k f) :=
  fun j hj => State.cmd_modCmd_other s k j f hj

end Sys2Proof.Safety

namespace Sys2Proof.Machine

open Sys2Proof.Safety

theorem modPort_onPort (s : State) (p : Fin 8) (f : Port → Port) : OnPort p s (s.modPort p f) :=
  ⟨fun q hq => State.port_modPort_other s p q f hq, .of_same rfl, (modPort_touches s p f).mono (by decide)⟩
theorem countPort_onPort (s : State) (p : Fin 8) (f : CircuitCounters → CircuitCounters) :
    OnPort p s (s.countPort p f) := modPort_onPort s p _
theorem pushChange_onPort (p : Fin 8) (s : State) (c : Change) : OnPort p s (s.pushChange c) :=
  ⟨.of_ports (s.pushChange_ports c), pushChange_grows s c, (pushChange_touches s c).mono (by decide)⟩

@[simp] theorem State.pushChange_port (s : State) (c : Change) (p : Fin 8) : (s.pushChange c).port p = s.port p :=
  State.port_of_ports (s.pushChange_ports c) p
@[simp] theorem toFlush_port (p : Fin 8) (s : State) : (toFlush p s).port p = (s.port p).enterEmpty .flush := by
  simp [toFlush]
@[simp] theorem toWait_port (p : Fin 8) (s : State) : (toWait p s).port p = (s.port p).enterEmpty .wait := by
  simp [toWait]
theorem toFlush_changes (p : Fin 8) (s : State) :
    (toFlush p s).changes = withEntry s.now (.circuitState p .flush) s.changes := pushChange_changes _ _
theorem toWait_changes (p : Fin 8) (s : State) :
    (toWait p s).changes = withEntry s.now (.circuitState p .wait) s.changes := pushChange_changes _ _

/-! ### Delay figure and flags -/

theorem evaluateDelay_onPort (p : Fin 8) (s : State) : OnPort p s (evaluateDelay p s) := by
  unfold evaluateDelay
  refine .ite _ ?_ (.refl _ _)
  exact .ite _ (modPort_onPort s p _) ((modPort_onPort s p _).trans (pushChange_onPort p _ _))
theorem updateAsymmetric_onPort (p : Fin 8) (x : Option Lane) (s : State) : OnPort p s (updateAsymmetric p x s) :=
  .ite _ (.refl _ _) ((modPort_onPort s p _).trans (pushChange_onPort p _ _))

/-! ### Circuit controller (chapter 5) -/

theorem toFlush_onPort (p : Fin 8) (s : State) : OnPort p s (toFlush p s) :=
  (modPort_onPort s p _).trans (pushChange_onPort p _ _)
theorem toWait_onPort (p : Fin 8) (s : State) : OnPort p s (toWait p s) :=
  (modPort_onPort s p _).trans (pushChange_onPort p _ _)
theorem saveHeld_onPort (p : Fin 8) (s : State) : OnPort p s (saveHeld p s) :=
  modPort_onPort s p _
theorem checkStarvation_onPort (p : Fin 8) (s : State) : OnPort p s (checkStarvation p s) :=
  .ite _ (((countPort_onPort s p _).trans (saveHeld_onPort p _)).trans (toWait_onPort p _))
    (.refl _ _)
theorem checkIdleRun_onPort (p : Fin 8) (s : State) : OnPort p s (checkIdleRun p s) :=
  .ite _ (toWait_onPort p _) (.refl _ _)
theorem checkFlushEnd_onPort (p : Fin 8) (s : State) : OnPort p s (checkFlushEnd p s) :=
  .ite _ ((modPort_onPort s p _).trans (pushChange_onPort p _ _)) (.refl _ _)
theorem enterPlay_onPort (p : Fin 8) (s : State) : OnPort p s (enterPlay p s) :=
  (modPort_onPort s p _).trans (pushChange_onPort p _ _)
theorem slip_onPort (p : Fin 8) (s : State) : OnPort p s (slip p s) := by
  unfold slip
  have h0 := fun f => countPort_onPort s p f
  exact (OnPort.ite _ ((h0 _).trans (saveHeld_onPort p _)) (h0 _)).trans (toFlush_onPort p _)
theorem switchLane_onPort (p : Fin 8) (L : Lane) (s : State) : OnPort p s (switchLane p L s) :=
  ((modPort_onPort s p _).trans (pushChange_onPort p _ _)).trans
    (evaluateDelay_onPort p _)
theorem checkPresence_onPort (p : Fin 8) (s : State) : OnPort p s (checkPresence p s) := by
  unfold checkPresence
  split
  · exact .refl _ _
  · exact .ite _ (switchLane_onPort _ _ _) (.refl _ _)
theorem checkTraffic_onPort (p : Fin 8) (s : State) : OnPort p s (checkTraffic p s) := by
  unfold checkTraffic
  split
  · exact .refl _ _
  · exact .ite _ (switchLane_onPort _ _ _) (.refl _ _)
theorem closeTally_onPort (p : Fin 8) (s : State) : OnPort p s (closeTally p s) :=
  .ite _ ((modPort_onPort s p _).trans (checkTraffic_onPort p _)) (.refl _ _)
theorem presenceRevert_onPort (p : Fin 8) (L : Lane) (b : Bool) (s : State) :
    OnPort p s (presenceRevert p L b s) :=
  .ite _ (modPort_onPort s p _) (.refl _ _)
theorem presenceReport_onPort (L : Lane) (b : Bool) (p : Fin 8) (s : State) :
    OnPort p s (presenceReport L b p s) := by
  unfold presenceReport
  split
  · exact ((presenceRevert_onPort p L b s).trans (checkPresence_onPort p _)).trans (evaluateDelay_onPort p _)
  · exact evaluateDelay_onPort p _
  all_goals exact .refl _ _
theorem selectLaneAtRun_onPort (p : Fin 8) (s : State) : OnPort p s (selectLaneAtRun p s) :=
  .ite _ ((modPort_onPort s p _).trans (checkPresence_onPort p _)) (.refl _ _)
theorem requestLoop_onPort (want : LoopState) (p : Fin 8) (s : State) :
    OnPort p s (requestLoop want p s) :=
  .ite _ (.refl _ _) ((modPort_onPort s p _).trans (toFlush_onPort p _))

/-! ### Playout engine (chapter 4) -/

theorem sortCell_onPort (p : Fin 8) (c : HeldCell) (s : State) : OnPort p s (sortCell p c s) := by
  unfold sortCell
  split
  · exact modPort_onPort s p _
  · exact modPort_onPort s p _
  · exact countPort_onPort s p _
  · exact countPort_onPort s p _
  · exact slip_onPort p s
theorem acceptCell_onPort (p : Fin 8) (c : HeldCell) (s : State) : OnPort p s (acceptCell p c s) := by
  unfold acceptCell
  split
  · exact .refl _ _
  · exact (countPort_onPort s p _).trans (toFlush_onPort p _)
  · exact countPort_onPort s p _
  · exact sortCell_onPort p c s
  · exact sortCell_onPort p c s
theorem sendFill_onPort (p : Fin 8) (s : State) : OnPort p s (sendFill p s) := by
  unfold sendFill; exact modPort_onPort s p _
theorem measureFill_onPort (p : Fin 8) (s : State) : OnPort p s (measureFill p s) := by
  unfold measureFill; exact modPort_onPort s p _
theorem computeClock_onPort (p : Fin 8) (s : State) : OnPort p s (computeClock p s) := by
  unfold computeClock; exact modPort_onPort s p _
theorem playTake_onPort (p : Fin 8) (s : State) : OnPort p s (playTake p s) := by
  unfold playTake; exact modPort_onPort s p _
theorem playInterval_onPort (p : Fin 8) (s : State) : OnPort p s (playInterval p s) :=
  (((playTake_onPort p s).trans (checkStarvation_onPort p _)).trans (measureFill_onPort p _)).trans
    (computeClock_onPort p _)
theorem prefillInterval_onPort (p : Fin 8) (s : State) : OnPort p s (prefillInterval p s) :=
  ((((sendFill_onPort p s).trans (modPort_onPort _ p _)).trans
    (checkIdleRun_onPort p _)).trans (measureFill_onPort p _)).trans (computeClock_onPort p _)
theorem countFlush_onPort (p : Fin 8) (s : State) : OnPort p s (countFlush p s) :=
  (modPort_onPort s p _).trans (checkFlushEnd_onPort p _)
theorem engineInterval_onPort (p : Fin 8) (s : State) : OnPort p s (engineInterval p s) := by
  have hf := ((sendFill_onPort p s).trans (measureFill_onPort p _)).trans (computeClock_onPort p _)
  unfold engineInterval
  split
  · exact .refl _ _
  · exact hf
  · exact hf.trans (countFlush_onPort p _)
  · exact .ite _ ((enterPlay_onPort p s).trans (playInterval_onPort p _)) (prefillInterval_onPort p s)
  · exact playInterval_onPort p s
theorem circuitInterval_onPort (p : Fin 8) (s : State) : OnPort p s (circuitInterval p s) :=
  (engineInterval_onPort p s).trans (closeTally_onPort p _)

/-! ### Circuits in any order -/

/-- Two states agree on all that an operation of circuit `p` reads. -/
structure Alike (p : Fin 8) (s t : State) : Prop where
  port : s.port p = t.port p
  clock : s.clock = t.clock
  ctl : s.ctl = t.ctl
  image : s.image = t.image
  peers : s.peers = t.peers

/-- An operation of one circuit acts on its port alone, by what it reads there. -/
structure Local (f : Fin 8 → State → State) : Prop where
  onPort : ∀ p s, OnPort p s (f p s)
  alike : ∀ p s t, Alike p s t → (f p s).port p = (f p t).port p

theorem arrange_perm {α : Type} : ∀ (n : Nat) (cs : List Nat) (l : List α), l.length ≤ n →
    (arrange n cs l).1.Perm l
  | 0, cs, l, _ => by simp [arrange]
  | n + 1, cs, [], _ => by simp [arrange]
  | n + 1, cs, [x], _ => by simp [arrange]
  | n + 1, cs, x :: y :: l, h => by
    have hi : cs.headD 0 % (l.length + 2) < (x :: y :: l).length :=
      Nat.mod_lt _ (Nat.succ_pos _)
    simp only [arrange]
    generalize cs.headD 0 % (l.length + 2) = i at hi
    have hg : ((x :: y :: l)[i]?).getD x = (x :: y :: l)[i] := by
      rw [List.getElem?_eq_getElem hi]; rfl
    rw [hg]
    have hl : ((x :: y :: l).eraseIdx i).length ≤ n := by
      have h' : l.length + 2 ≤ n + 1 := h
      rw [List.length_eraseIdx_of_lt hi]
      show l.length + 2 - 1 ≤ n
      omega
    exact ((arrange_perm n cs.tail _ hl).cons _).trans (List.getElem_cons_eraseIdx_perm hi)

/-- What an operation does circuit by circuit, in whatever order. -/
theorem foldPorts_spec {f : Fin 8 → State → State} (hf : Local f) : ∀ (l : List (Fin 8)) (s : State), l.Nodup →
    let t := l.foldl (fun s p => f p s) s
    (∀ p ∈ l, t.port p = (f p s).port p) ∧ (∀ p ∉ l, t.port p = s.port p) ∧ Grows s t ∧ Touches circuitParts s t
  | [], s, _ => ⟨fun _ h => absurd h (by simp), fun _ _ => rfl, .refl s, .refl _ s⟩
  | q :: l, s, hn => by
    have hq : q ∉ l := (List.nodup_cons.1 hn).1
    obtain ⟨h1, h2, h3, h4⟩ := foldPorts_spec hf l (f q s) (List.nodup_cons.1 hn).2
    have h0 := hf.onPort q s
    refine ⟨fun p hp => ?_, fun p hp => ?_, h0.grows.trans h3, h0.touches.trans h4⟩
    · rcases List.mem_cons.1 hp with rfl | hp
      · exact h2 _ hq
      · refine (h1 p hp).trans (hf.alike p _ _ ⟨?_, ?_, ?_, ?_, ?_⟩)
        · exact h0.others p fun e => hq (e ▸ hp)
        · exact h0.touches.same .clock (by decide)
        · exact h0.touches.same .ctl (by decide)
        · exact h0.touches.same .image (by decide)
        · exact h0.touches.same .peers (by decide)
    · exact (h2 p fun h => hp (by simp [h])).trans (h0.others p fun e => hp (by simp [e]))

theorem inSomeOrder_ports {f : Fin 8 → State → State} (hf : Local f) (s : State) (l : List (Fin 8)) (hn : l.Nodup) :
    let t := s.inSomeOrder l f
    (∀ p ∈ l, t.port p = (f p s).port p) ∧ (∀ p ∉ l, t.port p = s.port p) ∧ Grows s t ∧
      Touches [.ports, .changes, .tieBreak] s t := by
  have hp := arrange_perm l.length s.tieBreak l (Nat.le_refl _)
  obtain ⟨h1, h2, h3, h4⟩ := foldPorts_spec hf (arrange l.length s.tieBreak l).1
    { s with tieBreak := (arrange l.length s.tieBreak l).2 } (hp.nodup_iff.2 hn)
  have ht : Touches [.ports, .changes, .tieBreak] s { s with tieBreak := (arrange l.length s.tieBreak l).2 } := by
    intro x hx; cases x <;> first | rfl | simp at hx
  refine ⟨fun p h => ?_, fun p h => h2 p (hp.mem_iff.not.2 h), Grows.trans (t := { s with tieBreak := (arrange l.length s.tieBreak l).2 }) (.of_same rfl) h3,
    ht.trans (h4.mono (by decide))⟩
  exact (h1 p (hp.mem_iff.2 h)).trans (hf.alike p _ _ ⟨rfl, rfl, rfl, rfl, rfl⟩)

end Sys2Proof.Machine
end

