-- ==== Sys2Proof/Laws/Peers.lean ====
section
/-! SUPPORT. The tables kept per station (the peer records of R36 and the duplicate table of R26), the commands by number,
the forwarders' counts and the first counts of an arriving frame. -/

namespace Sys2Proof.Machine

open Sys2Proof.Safety

/-! ### Times and lanes -/

theorem reach_expired {s : State} {u : Time} (h : expired s.now u = true) : s.reach u = s := by
  simp [State.reach, h]

theorem lane_other_ne (L : Lane) : L.other ≠ L := by cases L <;> decide

/-! ### The commands (R135) -/

theorem modCmd_modCmd (s : State) (k : Fin 4) (f g : Command → Command) :
    (s.modCmd k f).modCmd k g = s.modCmd k (fun q => g (f q)) := by simp [State.modCmd]

theorem modCmd_congr (s : State) (k : Fin 4) (f g : Command → Command) (h : f (s.cmd k) = g (s.cmd k)) :
    s.modCmd k f = s.modCmd k g := by unfold State.modCmd; unfold State.cmd at h; rw [h]

/-! ### The peer records (R36) -/

/-- The first record of a station is the one the part reads and writes. -/
theorem findIdx_of {l : List Peer} {i : Nat} {r : Peer} {n : Nat} (h : l[i]? = some r) (hr : r.station = n)
    (hb : ∀ j < i, ∀ x, l[j]? = some x → x.station ≠ n) : l.findIdx? (fun r => r.station == n) = some i := by
  rw [List.findIdx?_eq_some_iff_getElem]
  obtain ⟨hi, he⟩ := List.getElem?_eq_some_iff.1 h
  refine ⟨hi, by simp [he, hr], ?_⟩
  intro j hj
  have := hb j hj l[j] (by simp [List.getElem?_eq_getElem (by omega : j < l.length)])
  simpa using this

theorem peers_modPeerLane (s : State) (i : Nat) (L : Lane) (f : PeerLane → PeerLane) (j : Nat) :
    (s.modPeerLane i L f).peers[j]? =
      if i = j then (s.peers[j]?).map (fun r => { r with lanes := r.lanes.set L (f (r.lanes.get L)) })
      else s.peers[j]? := by
  simp [State.modPeerLane, State.modPeer, List.getElem?_modify]
  split <;> simp

/-- What is taken to a peer's circuits is taken to each port of its circuit role once, in some order. -/
theorem inSomeOrder_role (r : Peer) (f : Fin 8 → State → State) (s : State) : ∃ order choices, RoleOrder r order ∧
    s.inSomeOrder r.rolePorts f = order.foldl (fun x p => f p x) { s with tieBreak := choices } := by
  have hp := arrange_perm r.rolePorts.length s.tieBreak r.rolePorts (Nat.le_refl _)
  refine ⟨_, _, ⟨hp.nodup_iff.2 ?_, fun p => ?_⟩, rfl⟩
  · exact List.Nodup.filter _ (by decide)
  · rw [hp.mem_iff]
    unfold Peer.rolePorts
    rw [List.mem_filter]
    exact ⟨fun h => h.2, fun h => ⟨(by decide : ∀ q : Fin 8, q ∈ allPorts) p, h⟩⟩

/-- A change of a lane part replaces it. -/
theorem modPeerLane_eq (s : State) (i : Nat) (L : Lane) (r : Peer) (f : PeerLane → PeerLane) (h : s.peers[i]? = some r) :
    s.modPeerLane i L f = withPart i L r (f (r.lanes.get L)) s := by
  obtain ⟨hi, he⟩ := List.getElem?_eq_some_iff.1 h
  unfold State.modPeerLane State.modPeer withPart
  rw [List.modify_eq_set_getElem?, h]; rfl

/-- The record of a lane part that has been replaced. -/
theorem peers_withPart (i : Nat) (L : Lane) (r : Peer) (x : PeerLane) (s : State) (h : s.peers[i]? = some r) :
    (withPart i L r x s).peers[i]? = some { r with lanes := r.lanes.set L x } := by
  obtain ⟨hi, he⟩ := List.getElem?_eq_some_iff.1 h
  simp [withPart, hi]

/-- A lane part replaced twice is replaced by the second. -/
theorem withPart_twice (i : Nat) (L : Lane) (r : Peer) (x y : PeerLane) (s : State) :
    withPart i L { r with lanes := r.lanes.set L x } y (withPart i L r x s) = withPart i L r y s := by
  cases L <;> simp [withPart, PerLane.set]

/-- R128, R130: what new samples make of a lane part, and what follows. -/
theorem setSamples_spec (i : Nat) (L : Lane) (samples : List Nat) (s : State) (r : Peer) (h : s.peers[i]? = some r) :
    PartBecomes i L r { r.lanes.get L with samples := samples, figure := pathFigure samples } s
      (setSamples i L samples s) := by
  unfold setSamples PartBecomes
  simp only [h, modPeerLane_eq _ _ _ _ _ h]
  refine ⟨fun hf => ?_, fun hf => ?_⟩
  · rw [if_pos (by simpa using Eq.symm hf)]
  · rw [if_neg (by simpa using Ne.symm hf)]
    exact inSomeOrder_role r evaluateDelay _

/-- R36: the index of a station's first record. -/
theorem peerIndex_of {s : State} {i : Nat} {r : Peer} {n : Nat} (h : s.peers[i]? = some r) (hr : r.station = n)
    (hb : ∀ j < i, ∀ x, s.peers[j]? = some x → x.station ≠ n) : s.peerIndex n = some i := findIdx_of h hr hb

/-- R36: a station without a record has no index. -/
theorem peerIndex_none {s : State} {n : Nat} (h : ∀ r ∈ s.peers, r.station ≠ n) : s.peerIndex n = none := by
  unfold State.peerIndex; rw [List.findIdx?_eq_none_iff]; intro x hx; simpa using h x hx

/-- R121, R122: a filed ECHO, and what it makes of the lane part it is filed in. -/
theorem fileEcho_spec (X : Lane) (station : Nat) (t1 : Time) (s : State) (i : Nat) (r : Peer) (h : s.peers[i]? = some r)
    (hr : r.station = station) (hb : ∀ j < i, ∀ x, s.peers[j]? = some x → x.station ≠ station) :
    let part := r.lanes.get X.other
    PartBecomes i X.other r
      (if part.outstanding = none then { part with outstanding := some t1 }
       else if part.missed < 2 then { part with outstanding := some t1, missed := part.missed + 1 }
       else { part with outstanding := some t1, missed := 3, samples := [], figure := none })
      s (fileEcho X station t1 s) := by
  intro part
  unfold fileEcho
  rw [peerIndex_of h hr hb]
  simp only [h]
  cases ho : (r.lanes.get X.other).outstanding with
  | none =>
    rw [if_pos rfl]; dsimp only; rw [modPeerLane_eq _ _ _ _ _ h]
    exact ⟨fun _ => rfl, fun hf => absurd rfl hf⟩
  | some x =>
    rw [if_neg (show ¬ some x = none from fun e => by cases e)]
    simp only [modPeerLane_eq _ _ _ _ _ h]
    have h2 := peers_withPart i X.other r { r.lanes.get X.other with
      outstanding := some t1, missed := min 3 ((r.lanes.get X.other).missed + 1) } s h
    unfold unmeasure
    simp only [h2, PerLane.get_set_same]
    by_cases hm : part.missed < 2
    · have : min 3 (part.missed + 1) = part.missed + 1 := by omega
      rw [if_pos hm, if_neg (show ¬ min 3 (part.missed + 1) = 3 by omega)]
      refine ⟨fun _ => ?_, fun hf => absurd rfl hf⟩
      show withPart _ _ _ { part with outstanding := _, missed := min 3 (part.missed + 1) } _ = _
      rw [this]
    · have hm3 : min 3 (part.missed + 1) = 3 := by omega
      rw [if_neg hm, if_pos (show min 3 (part.missed + 1) = 3 from hm3)]
      have := setSamples_spec i X.other [] _ _ h2
      unfold PartBecomes at this ⊢
      simp only [PerLane.get_set_same, withPart_twice] at this
      have e : min 3 ((r.lanes.get X.other).missed + 1) = 3 := hm3
      rw [e] at this ⊢
      exact this

/-- R127, R128: new samples change the record of that peer and lane alone. -/
theorem setSamples_peers (i : Nat) (L : Lane) (x : List Nat) (s : State) :
    (setSamples i L x s).peers =
      (s.modPeerLane i L fun l => { l with samples := x, figure := pathFigure x }).peers := by
  unfold setSamples
  split
  · rename_i h
    simp only [State.modPeerLane, State.modPeer]
    rw [List.modify_eq_self]; simpa using h
  · dsimp only
    split
    · rfl
    · exact (Touches.inSomeOrder (P := [.tieBreak, .ports, .changes]) (by decide) evaluateDelay
        (fun a s => (evaluateDelay_touches a s).mono (by decide)) _ _).same .peers (by decide)

/-- R122: the third echo missed in a row empties the record of that peer and lane. -/
theorem unmeasure_peers (i : Nat) (L : Lane) (s : State) (r : Peer) (h : s.peers[i]? = some r) :
    (unmeasure i L s).peers =
      if (r.lanes.get L).missed = 3 then
        (s.modPeerLane i L fun l => { l with samples := [], figure := none }).peers
      else s.peers := by
  simp only [unmeasure, h]
  split
  · exact setSamples_peers _ _ _ _
  · rfl

/-! ### The duplicate table (R26) -/

theorem dup_set (s : State) (n : Nat) (e : Option DupEntry) (h : 1 ≤ n ∧ n ≤ 62) :
    (s.setDup n e).dupEntry n = e := by simp [State.setDup, State.dupEntry, dupPlace, h]

theorem dup_restart (s : State) (n : Nat) (h : 1 ≤ n ∧ n ≤ 62) :
    (restartAge n s).dupEntry n = (s.dupEntry n).map (fun x => { x with age := s.after 2000000 }) := by
  unfold restartAge
  cases hd : s.dupEntry n with
  | none => simp [hd]
  | some e => simp [dup_set s n _ h, Config.agePeriod]

theorem judge_age (e : Option DupEntry) (t : Time) (q : BitVec 16) :
    judgeSequence (e.map (fun x => { x with age := t })) q = judgeSequence e q := by cases e <;> rfl

theorem dupEntry_of {s t : State} (h : t.dup = s.dup) (n : Nat) : t.dupEntry n = s.dupEntry n := by
  simp [State.dupEntry, h]

/-! ### The counts of an arriving frame (R26) -/

theorem countLane_fw (s : State) (L : Lane) (f : LaneCounters → LaneCounters) :
    (s.countLane L f).forwarder L = { s.forwarder L with counts := f (s.forwarder L).counts } := by
  simp [State.countLane]

theorem countLane_other (s : State) (L : Lane) (f : LaneCounters → LaneCounters) :
    (s.countLane L f).forwarder L.other = s.forwarder L.other :=
  State.forwarder_modForwarder_other _ _ _ _ (lane_other_ne L)

/-- The state in which a frame that passed its check value is judged. -/
def counted (L : Lane) (f : Octets) (s : State) : State :=
  let s1 := s.countLane L fun c => { c with framesReceived := bump c.framesReceived }
  if malformed f then s1.countLane L fun c => { c with malformed := bump c.malformed } else s1

theorem arrive_pass (L : Lane) (f : Octets) (s : State) (h : checkPasses f = true) :
    arrive L f s = judgeFrame L f (counted L f s) := by simp [arrive, h, counted]

theorem counted_touches (L : Lane) (f : Octets) (s : State) : Touches [.lanes] s (counted L f s) := by
  unfold counted; dsimp only
  exact .ite _ ((countLane_touches _ _ _).trans (countLane_touches _ _ _)) (countLane_touches _ _ _)

theorem counted_other (L : Lane) (f : Octets) (s : State) :
    (counted L f s).forwarder L.other = s.forwarder L.other := by
  unfold counted; dsimp only; split <;> simp [countLane_other]

theorem counted_fw (L : Lane) (f : Octets) (s : State) :
    (counted L f s).forwarder L = { s.forwarder L with counts := { (s.forwarder L).counts with
      framesReceived := bump (s.forwarder L).counts.framesReceived
      malformed := if malformed f then bump (s.forwarder L).counts.malformed
        else (s.forwarder L).counts.malformed } } := by
  unfold counted; dsimp only; split <;> simp [countLane_fw, *]

theorem counted_ctl (L : Lane) (f : Octets) (s : State) : (counted L f s).ctl = s.ctl :=
  (counted_touches L f s).same .ctl (by decide)

theorem counted_settled (L : Lane) (f : Octets) (s : State) (h : Settled s) : Settled (counted L f s) := by
  intro M hM
  by_cases e : M = L
  · subst e; rw [counted_fw] at *; exact h M hM
  · have : M = L.other := by cases M <;> cases L <;> first | rfl | exact absurd rfl e
    subst this; rw [counted_other] at *; exact h _ hM

end Sys2Proof.Machine
end

