-- ==== Sys2Proof/Laws/Arrivals.lean ====
section
/-! SUPPORT. Frames delivered to this station: what the delivery filter and the dispatch make of one copy. -/

namespace Sys2Proof.Machine

open Sys2Proof.Safety

/-- R15, R173: two events that come together are taken one after the other, in an order that a choice gives. -/
theorem inEitherOrder_spec (s : State) (f g : State → State) : ∃ choices,
    s.inEitherOrder f g = g (f { s with tieBreak := choices }) ∨ s.inEitherOrder f g = f (g { s with tieBreak := choices }) := by
  unfold State.inEitherOrder State.inSomeOrder
  dsimp only
  have hp := arrange_perm [true, false].length s.tieBreak [true, false] (Nat.le_refl _)
  refine ⟨(arrange [true, false].length s.tieBreak [true, false]).2, ?_⟩
  generalize (arrange [true, false].length s.tieBreak [true, false]) = r at *
  obtain ⟨l, cs⟩ := r
  have : l = [true, false] ∨ l = [false, true] := by
    have hl := hp.length_eq
    match l, hl with
    | [a, b], _ =>
      have hnd := hp.nodup_iff.2 (by decide : [true, false].Nodup)
      cases a <;> cases b <;> simp at hnd ⊢
  rcases this with h | h <;> subst h
  · left; rfl
  · right; rfl

/-- R29: the age of a source's valid entry starts again; without one nothing changes. -/
theorem restartAge_eq (n : Nat) (s : State) :
    restartAge n s = s.setDup n ((s.dupEntry n).map fun x => { x with age := s.after 2000000 }) := by
  unfold restartAge
  cases hd : s.dupEntry n with
  | none =>
    show s = s.setDup n none
    unfold State.setDup State.dupEntry at *
    cases hp : dupPlace n with
    | none => rfl
    | some i =>
      rw [hp] at hd
      have : s.dup.set i none = s.dup := by
        have hd' : s.dup[i] = none := hd
        rw [← hd']; exact Vector.set_getElem_self _
      show s = { s with dup := s.dup.set i none }
      rw [this]
  | some e => rfl

/-- R3: a well-formed frame comes from a station 1..62. -/
theorem source_of_wellFormed {f : Octets} (hm : malformed f = false) : 1 ≤ frameSource f ∧ frameSource f ≤ 62 := by
  unfold malformed at hm
  split at hm
  · cases hm
  · simp only [Bool.or_eq_false_iff, beq_eq_false_iff_ne] at hm
    have : frameSource f < 64 := Nat.mod_lt _ (by omega)
    omega

/-- R3: a well-formed frame is of one of the eight kinds. -/
theorem kind_of_wellFormed {f : Octets} (hm : malformed f = false) :
    ∃ k, kindOf (oct f 0) = some k ∧ (oct f 0).toNat = (k.code).toNat := by
  unfold malformed at hm
  cases hk : kindOf (oct f 0) with
  | none => rw [hk] at hm; cases hm
  | some k =>
    refine ⟨k, rfl, ?_⟩
    unfold kindOf at hk
    split at hk <;> first | (cases hk; simp [FrameKind.code, *]) | cases hk

/-- R25: in RUN a well-formed copy goes to the unit of its kind. -/
theorem dispatch_spec (L : Lane) (f : Octets) (s : State) (hm : malformed f = false) (hk : oct f 0 ≠ 2)
    (hr : s.rstLow = false) (hrun : s.ctl.station = .run) :
    Dispatched L f s (dispatch L f s) := by
  obtain ⟨k, hk1, hk2⟩ := kind_of_wellFormed hm
  unfold Dispatched dispatch
  rw [hk2, hk1, hrun]
  dsimp only [beq_self_eq_true, if_true]
  cases k <;> simp only [FrameKind.code]
  case trib => rfl
  case mark => exfalso; apply hk; apply BitVec.eq_of_toNat_eq; rw [hk2]; rfl
  case echo => rfl
  case echoR => rfl
  case cmd => rfl
  case cmdAck => rfl
  case qry =>
    have hrun' : ∀ F, s.running F = F s := by intro F; simp [State.running, hr]
    show exec (queryRow _ (queryHead f)) s = .next (respond _ (queryHead f) s)
    unfold queryRow respond
    generalize hb : (oct (frameBody f) 0).toNat = b
    split <;> simp only [exec, execReadStation, execReadCircuit, execReadPeer, execReadCommand, execDrain,
      execSetLoopLine, execSetLoopLocal, execClearLoop, execClearCounts, execRestart, execUnknownQueryKind, hrun']
    rename_i h1 h2 h3 h4 h5 h6 h7 h8 h9 h10
    unfold respond
    rw [hb]; congr 2; funext x
    split <;> first | exact absurd rfl h1 | exact absurd rfl h2 | exact absurd rfl h3 | exact absurd rfl h4 |
      exact absurd rfl h5 | exact absurd rfl h6 | exact absurd rfl h7 | exact absurd rfl h8 | exact absurd rfl h9 |
      exact absurd rfl h10 | rfl
  case qryR => rfl

/-- R22 to R25, R28 to R30, R38: all that the delivery of one well-formed copy does. -/
theorem deliver_spec (L : Lane) (f : Octets) (s : State) (hm : malformed f = false) (hr : s.rstLow = false) :
    Delivered L f s (deliver L f s) := by
  have hsrc := source_of_wellFormed hm
  let s2 := s.countLane L fun c => { c with framesDelivered := bump c.framesDelivered }
  have hs3 : restartAge (frameSource f) s2 = s2.setDup (frameSource f)
      ((s.dupEntry (frameSource f)).map fun x => { x with age := s.after 2000000 }) := restartAge_eq _ s2
  have hd : deliver L f s = deliveryFilter L f s2 := rfl
  unfold Delivered
  intro src e aged
  have hag : restartAge (frameSource f) s2 = aged := hs3
  have ha2 : Touches [.lanes, .dup] s aged := ((countLane_touches _ _ _).mono (by decide)).trans ((setDup_touches _ _ _).mono (by decide))
  have hpeers : aged.peers = s.peers := ha2.same .peers (by decide)
  have hctl : aged.ctl = s.ctl := ha2.same .ctl (by decide)
  have hport : ∀ p, aged.port p = s.port p := fun p => State.port_of_ports (ha2.same .ports (by decide)) p
  have himg : aged.image = s.image := ha2.same .image (by decide)
  have hstats : aged.stats = s.stats := ha2.same .stats (by decide)
  have hdup : aged.dupEntry src = e.map fun x => { x with age := s.after 2000000 } := dup_set _ _ _ hsrc
  have haft : ∀ k, aged.after k = s.after k := by intro k; unfold State.after; rw [ha2.same .clock (by decide)]
  constructor
  · intro hk
    have hdel : deliver L f s = receiveMark L f aged := by
      rw [hd]; unfold deliveryFilter; rw [hag]; rw [if_pos (by rw [hk]; rfl)]
    constructor
    · rintro (h | h)
      · rw [hdel]; unfold receiveMark; rw [if_neg]; simpa [StationState.code] using h
      · rw [hdel]; unfold receiveMark
        split
        · have : aged.peerIndex (frameSource f) = none := by
            unfold State.peerIndex; rw [hpeers, List.findIdx?_eq_none_iff]; intro x hx; simpa using h x hx
          rw [this]
        · rfl
    · intro h3 i r hi hs hj
      rw [hdel]; unfold receiveMark
      rw [if_pos (by rw [h3]; rfl)]
      have : aged.peerIndex (frameSource f) = some i := by
        unfold State.peerIndex; rw [hpeers]; exact findIdx_of hi hs hj
      rw [this]
  · intro hk
    have hk' : (oct f 0 == FrameKind.mark.code) = false := by simpa [FrameKind.code] using hk
    have hlf : laneFiltered L f aged = true ↔ LaneDrops L f s := by
      unfold laneFiltered LaneDrops
      simp only [hport, hctl, State.setting, himg]
      simp only [Bool.and_eq_true, beq_iff_eq, FrameKind.code]
      cases hc : (s.port (tribDestPort (frameBody f))).circuit.current with
      | none => simp
      | some c => cases c <;> cases L <;> simp [Lane.other] <;> tauto
    constructor
    · intro hl
      rw [hd]; unfold deliveryFilter; rw [hk', hag]; simp only [hlf.2 hl, if_true, Bool.false_eq_true, if_false]; rfl
    · intro hl
      have : deliver L f s = passWindow L f aged := by
        rw [hd]; unfold deliveryFilter; rw [hk', hag]; simp only [mt hlf.1 hl, Bool.false_eq_true, if_false]
      rw [this]; unfold passWindow; rw [hdup, judge_age]
      cases hj : judgeSequence e (frameSeq f) with
      | duplicate => show _ = _; simp only [State.modStats, hstats]
      | stale => show _ = _; simp only [State.modStats, hstats]
      | accepted front w =>
        show (_ → _) ∧ (_ → _)
        simp only [haft]
        constructor
        · intro hrun
          apply dispatch_spec L f _ hm hk
          · rw [(setDup_touches _ _ _).same .rstLow (by decide), ha2.same .rstLow (by decide), hr]
          · rw [(setDup_touches _ _ _).same .ctl (by decide), hctl, hrun]
        · intro hrun
          unfold dispatch; rw [if_neg]; rfl
          rw [(setDup_touches _ _ _).same .ctl (by decide), hctl]; simpa using hrun

end Sys2Proof.Machine
end

