-- ==== Sys2Proof/Laws/Idle.lean ====
section
/-! SUPPORT. Station time: the events that are due, and the time that passes until a timer's station time (R171). -/

namespace Sys2Proof.Machine

open Sys2Proof.Safety

theorem phaseRate_eq (p : Fin 8) (s : State) : phaseRate p s = s.txRate p := by
  unfold phaseRate State.txRate State.txClass State.closed
  dsimp only
  have : (if (s.ctl.station = .quiet ∨ s.ctl.station = .run ∨ s.ctl.station = .clash) then recN (s.setting p) else 256) =
      (if (s.ctl.station == .quiet || s.ctl.station == .run || s.ctl.station == .clash) = true then
        recClass (s.setting p) else RateClass.W).octets := by
    by_cases h : s.ctl.station = .quiet ∨ s.ctl.station = .run ∨ s.ctl.station = .clash
    · rw [if_pos h, if_pos (by simpa [or_assoc] using h)]; rfl
    · rw [if_neg h, if_neg (by simpa [or_assoc] using h)]; rfl
  rw [this]
  cases (s.port p).enabled <;> simp

theorem mem_onlyIf {b : Bool} {c d : Instr} : d ∈ onlyIf b c ↔ b = true ∧ d = c := by
  unfold onlyIf; cases b <;> simp

theorem due_iff {s : State} {t : Timer} : s.timerDue t = true ↔ ∃ u, t = some u ∧ expired s.now u = true := by
  cases t <;> simp [State.timerDue]

theorem mem_allPorts (p : Fin 8) : p ∈ allPorts := by revert p; decide
theorem mem_allCommands (p : Fin 4) : p ∈ allCommands := by revert p; decide
theorem mem_allLanes (p : Lane) : p ∈ allLanes := by cases p <;> simp [allLanes]

theorem fallsDue_of_mem (s : State) (c : Instr) : c ∈ s.dueEvents → FallsDue s c := by
  intro h
  simp only [State.dueEvents, List.mem_append, List.mem_flatten, List.mem_map] at h
  rcases h with ((((h | h) | h) | h) | h) | h
  · simp only [State.dueAtStation, List.mem_append, mem_onlyIf, due_iff, Bool.and_eq_true, beq_iff_eq, decide_eq_true_eq] at h
    rcases h with ((⟨⟨h1, u, hu, he⟩, rfl⟩ | ⟨⟨u, hu, he⟩, rfl⟩) | ⟨⟨u, hu, he⟩, rfl⟩) | ⟨h, rfl⟩
    · exact .inl ⟨u, ⟨h1, hu⟩, he⟩
    · exact .inl ⟨u, hu, he⟩
    · exact .inl ⟨u, hu, he⟩
    · exact .inr (.inr (.inl ⟨rfl, h⟩))
  · obtain ⟨l, ⟨L, -, rfl⟩, h⟩ := h
    simp only [State.dueOnLane, List.mem_append, mem_onlyIf, due_iff] at h
    rcases h with h | ⟨⟨u, hu, he⟩, rfl⟩
    · split at h
      · simp at h
      · rename_i f hf; rw [mem_onlyIf] at h; exact .inr (.inl ⟨L, f, h.2, hf, by simpa using h.1⟩)
    · exact .inl ⟨u, hu, he⟩
  · simp only [State.dueDuplicates, List.mem_flatten, List.mem_map] at h
    obtain ⟨l, ⟨i, hi, rfl⟩, h⟩ := h
    rw [mem_onlyIf, due_iff] at h
    obtain ⟨⟨u, hu, he⟩, rfl⟩ := h
    rw [Option.map_eq_some_iff] at hu
    obtain ⟨e, h1, rfl⟩ := hu
    refine .inl ⟨_, ⟨e, ?_, rfl⟩, he⟩
    have hi' := List.mem_range.1 hi
    rw [show (BitVec.ofNat 6 (i + 1)).toNat = i + 1 by simp; omega]; exact h1
  · simp only [State.duePresence, List.mem_flatten, List.mem_map] at h
    obtain ⟨l, ⟨i, hi, rfl⟩, h⟩ := h
    have hi' := List.mem_range.1 hi
    split at h
    · simp at h
    · rename_i r hr
      simp only [List.mem_flatten, List.mem_map] at h
      obtain ⟨l, ⟨L, -, rfl⟩, h⟩ := h
      rw [mem_onlyIf, due_iff] at h
      obtain ⟨⟨u, hu, he⟩, rfl⟩ := h
      refine .inl ⟨u, ⟨r, ?_, hu⟩, he⟩
      rw [show (Fin.ofNat 12 i).val = i by simp; omega]; exact hr
  · obtain ⟨l, ⟨p, -, rfl⟩, h⟩ := h
    simp only [State.dueOnPort, List.mem_append, mem_onlyIf, due_iff, Bool.and_eq_true, beq_iff_eq, decide_eq_true_eq] at h
    rcases h with ((⟨⟨u, hu, he⟩, rfl⟩ | h) | ⟨⟨h1, u, hu, he⟩, rfl⟩) | ⟨⟨h1, h2⟩, rfl⟩
    · exact .inl ⟨u, hu, he⟩
    · split at h
      · rename_i t ht; rw [mem_onlyIf] at h; obtain ⟨h1, rfl⟩ := h; exact .inl ⟨t, ht, h1⟩
      all_goals simp at h
    · exact .inl ⟨u, ⟨h1, hu⟩, he⟩
    · exact .inr (.inr (.inr ⟨p, rfl, by rw [phaseRate_eq]; simpa using h1, h2⟩))
  · obtain ⟨l, ⟨k, -, rfl⟩, h⟩ := h
    simp only [State.dueOnCommand, List.mem_append, mem_onlyIf, due_iff] at h
    rcases h with (⟨⟨u, hu, he⟩, rfl⟩ | h) | h
    · exact .inl ⟨u, hu, he⟩
    · split at h
      · simp at h
      · rename_i o ho
        simp only [List.mem_append, mem_onlyIf, due_iff] at h
        rcases h with ⟨⟨u, hu, he⟩, rfl⟩ | ⟨⟨u, hu, he⟩, rfl⟩
        · exact .inl ⟨u, ⟨o, ho, hu⟩, he⟩
        · exact .inl ⟨u, ⟨o, ho, hu⟩, he⟩
    · split at h
      · simp at h
      · rename_i r hr
        simp only [List.mem_append, mem_onlyIf, due_iff] at h
        rcases h with ((⟨⟨u, hu, he⟩, rfl⟩ | ⟨⟨u, hu, he⟩, rfl⟩) | ⟨⟨u, hu, he⟩, rfl⟩) | h
        · exact .inl ⟨u, ⟨r, hr, hu⟩, he⟩
        · exact .inl ⟨u, ⟨r, hr, hu⟩, he⟩
        · exact .inl ⟨u, ⟨r, hr, hu⟩, he⟩
        · split at h
          · simp at h
          · rename_i x hx
            rw [mem_onlyIf, due_iff] at h
            obtain ⟨⟨u, hu, he⟩, rfl⟩ := h
            exact .inl ⟨u, ⟨r, x, hr, hx, hu⟩, he⟩

theorem mem_of_fallsDue (s : State) (c : Instr) : FallsDue s c → c ∈ s.dueEvents := by
  have mst : c ∈ s.dueAtStation → c ∈ s.dueEvents := by intro h; simp [State.dueEvents, h]
  have mla : ∀ L, c ∈ s.dueOnLane L → c ∈ s.dueEvents := by
    intro L h; simp only [State.dueEvents, List.mem_append, List.mem_flatten, List.mem_map]
    exact .inl (.inl (.inl (.inl (.inr ⟨_, ⟨L, mem_allLanes L, rfl⟩, h⟩))))
  have mpo : ∀ L, c ∈ s.dueOnPort L → c ∈ s.dueEvents := by
    intro L h; simp only [State.dueEvents, List.mem_append, List.mem_flatten, List.mem_map]
    exact .inl (.inr ⟨_, ⟨L, mem_allPorts L, rfl⟩, h⟩)
  have mco : ∀ L, c ∈ s.dueOnCommand L → c ∈ s.dueEvents := by
    intro L h; simp only [State.dueEvents, List.mem_append, List.mem_flatten, List.mem_map]
    exact (.inr ⟨_, ⟨L, mem_allCommands L, rfl⟩, h⟩)
  rintro (⟨u, hr, he⟩ | ⟨L, f, rfl, hf, hs⟩ | ⟨rfl, h⟩ | ⟨p, rfl, h1, h2⟩)
  · unfold RunsTo at hr
    split at hr
    · rename_i L; apply mla L; simp [State.dueOnLane, mem_onlyIf, State.timerDue, hr, he]
    · apply mst; simp [State.dueAtStation, mem_onlyIf, State.timerDue, hr, he]
    · apply mst; simp [State.dueAtStation, mem_onlyIf, State.timerDue, hr, he]
    · apply mst; simp [State.dueAtStation, mem_onlyIf, State.timerDue, hr, he]
    · rename_i st
      obtain ⟨e, h1, h2⟩ := hr
      have hst : 1 ≤ st.toNat ∧ st.toNat ≤ 62 := by
        unfold State.dupEntry at h1; unfold dupPlace at h1; by_contra hc; rw [dif_neg hc] at h1; cases h1
      simp only [State.dueEvents, List.mem_append]
      refine .inl (.inl (.inl (.inr ?_)))
      simp only [State.dueDuplicates, List.mem_flatten, List.mem_map]
      refine ⟨_, ⟨st.toNat - 1, by simp; omega, rfl⟩, ?_⟩
      rw [mem_onlyIf, show st.toNat - 1 + 1 = st.toNat by omega, h1]
      exact ⟨by simp [State.timerDue, h2, he], by simp⟩
    · rename_i i L
      obtain ⟨r, h1, h2⟩ := hr
      simp only [State.dueEvents, List.mem_append]
      refine .inl (.inl (.inr ?_))
      simp only [State.duePresence, List.mem_flatten, List.mem_map]
      refine ⟨_, ⟨i.val, by simp, rfl⟩, ?_⟩
      rw [h1]
      simp only [List.mem_flatten, List.mem_map]
      refine ⟨_, ⟨L, mem_allLanes L, rfl⟩, ?_⟩
      rw [mem_onlyIf]; exact ⟨by simp [State.timerDue, h2, he], by simp⟩
    · rename_i p; apply mpo p; simp [State.dueOnPort, mem_onlyIf, State.timerDue, hr, he]
    · rename_i p; apply mpo p; simp [State.dueOnPort, mem_onlyIf, State.timerDue, hr, he]
    · rename_i p; apply mpo p; simp [State.dueOnPort, mem_onlyIf, State.timerDue, hr, he]
    · rename_i p; apply mco p; simp [State.dueOnCommand, mem_onlyIf, State.timerDue, hr, he]
    · rename_i p; obtain ⟨o, h1, h2⟩ := hr; apply mco p; simp [State.dueOnCommand, mem_onlyIf, State.timerDue, h1, h2, he]
    · rename_i p; obtain ⟨o, h1, h2⟩ := hr; apply mco p; simp [State.dueOnCommand, mem_onlyIf, State.timerDue, h1, h2, he]
    · rename_i p; obtain ⟨o, h1, h2⟩ := hr; apply mco p; simp [State.dueOnCommand, mem_onlyIf, State.timerDue, h1, h2, he]
    · rename_i p; obtain ⟨o, h1, h2⟩ := hr; apply mco p; simp [State.dueOnCommand, mem_onlyIf, State.timerDue, h1, h2, he]
    · rename_i p; obtain ⟨o, h1, h2⟩ := hr; apply mco p; simp [State.dueOnCommand, mem_onlyIf, State.timerDue, h1, h2, he]
    · rename_i p; obtain ⟨o, x, h1, h2, h3⟩ := hr; apply mco p; simp [State.dueOnCommand, mem_onlyIf, State.timerDue, h1, h2, h3, he]
    · exact hr.elim
  · apply mla L; simp [State.dueOnLane, mem_onlyIf, hf, hs]
  · apply mst; simp [State.dueAtStation, mem_onlyIf, Config.intervalTicks, h]
  · apply mpo p; rw [phaseRate_eq] at h1; simp [State.dueOnPort, mem_onlyIf, h1, Config.txBit]; exact .inr (decide_eq_true h2)

/-- R16, R70, R111, R171: the events that are due are those whose time has come. -/
theorem mem_dueEvents (s : State) (c : Instr) : c ∈ s.dueEvents ↔ FallsDue s c := ⟨fallsDue_of_mem s c, mem_of_fallsDue s c⟩

/-- A timer's time that lies ahead is reached exactly, and nothing but the clock moves. -/
theorem reach_ahead (s : State) (u : Time) (hs : s.clock.subTick < 25) (he : expired s.now u = false) :
    (s.reach u).now = u ∧ (s.reach u).clock.interval = s.clock.interval + (u - s.now).toNat ∧
    Touches [.clock] s (s.reach u) := by
  have hz : (u - s.now).toNat ≠ 0 := by
    intro h0
    have : u = s.now := by
      have h1 : u - s.now = 0 := BitVec.eq_of_toNat_eq (by rw [h0]; rfl)
      have := congrArg (· + s.now) h1
      simpa using this
    subst this; unfold expired at he; simp at he
  unfold State.reach State.elapseTicks
  rw [if_neg (by simp [he]), if_neg hz]
  generalize hn : (u - s.now).toNat = n at *
  have : (s.clock.subTick + (n * 25 - s.clock.subTick)) / 25 = n := by
    have : s.clock.subTick ≤ n * 25 := by omega
    omega
  refine ⟨?_, ?_, ?_⟩
  · unfold State.elapse State.now Config.quantaPerTick; dsimp only; rw [this, ← hn]
    apply BitVec.eq_of_toNat_eq; simp [State.now]; omega
  · unfold State.elapse Config.quantaPerTick; dsimp only; rw [this]
  · intro x hx; cases x <;> first | rfl | simp at hx

end Sys2Proof.Machine
end

