-- ==== Sys2Proof/Laws/Intervals.lean ====
section
/-! SUPPORT. The operations that the part performs circuit by circuit, in whatever order: each reads of the state
only what concerns its own circuit, so that the order makes no difference to any port. -/

namespace Sys2Proof.Machine

open Sys2Proof.Safety

/-! ### Two states that agree on circuit `p` still do after an operation of that circuit -/

theorem alike_setting {p : Fin 8} {s t : State} (h : Alike p s t) (p') :
    s.setting p' = t.setting p' := by unfold State.setting; rw [h.image]
theorem alike_modPort {p : Fin 8} {s t : State} (h : Alike p s t) (f g : Port → Port)
    (e : f (s.port p) = g (s.port p)) :
    Alike p (s.modPort p f) (t.modPort p g) := by
  refine ⟨?_, h.clock, h.ctl, h.image, h.peers⟩
  rw [State.port_modPort_same, State.port_modPort_same, ← h.port, e]
theorem alike_pushChange {p : Fin 8} {s t : State} (h : Alike p s t) (c) : Alike p (s.pushChange c) (t.pushChange c) :=
  ⟨by simp [h.port], by simp [h.clock], by simp [h.ctl], by simp [h.image], by simp [h.peers]⟩
theorem alike_farPresent {p : Fin 8} {s t : State} (h : Alike p s t) (L) : s.farPresent p L = t.farPresent p L := by
  unfold State.farPresent State.farPeer; rw [h.peers, alike_setting h]
theorem alike_after {p : Fin 8} {s t : State} (h : Alike p s t) (k) :
    s.after k = t.after k := by unfold State.after; rw [h.clock]
theorem alike_evaluateDelay {p : Fin 8} {s t : State} (h : Alike p s t) :
    Alike p (evaluateDelay p s) (evaluateDelay p t) := by
  have hd : s.delayFigure p = t.delayFigure p := by
    unfold State.delayFigure State.farPeer; rw [h.peers, alike_setting h, h.port]
  unfold evaluateDelay
  rw [h.port, alike_setting h, hd]
  dsimp only
  split
  · split
    · exact alike_modPort h _ _ rfl
    · exact alike_pushChange (alike_modPort h _ _ rfl) _
  · exact h
theorem alike_switchLane {p : Fin 8} {s t : State} (h : Alike p s t) (L) :
    Alike p (switchLane p L s) (switchLane p L t) := by
  unfold switchLane
  dsimp only
  apply alike_evaluateDelay; apply alike_pushChange; apply alike_modPort h
  have : s.revertTimerFor p L = t.revertTimerFor p L := by
    unfold State.revertTimerFor; rw [alike_setting h]; simp only [alike_farPresent h, alike_after h]
  rw [this]
theorem alike_checkTraffic {p : Fin 8} {s t : State} (h : Alike p s t) :
    Alike p (checkTraffic p s) (checkTraffic p t) := by
  unfold checkTraffic; rw [h.port, h.ctl, alike_setting h]; split
  · exact h
  · split
    · exact alike_switchLane h _
    · exact h
theorem alike_closeTally {p : Fin 8} {s t : State} (h : Alike p s t) : Alike p (closeTally p s) (closeTally p t) := by
  unfold closeTally; rw [h.port, h.ctl, alike_setting h]; split
  · exact alike_checkTraffic (alike_modPort h _ _ rfl)
  · exact h
theorem alike_toWait {p : Fin 8} {s t : State} (h : Alike p s t) :
    Alike p (toWait p s) (toWait p t) := alike_pushChange (alike_modPort h _ _ rfl) _
theorem alike_saveHeld {p : Fin 8} {s t : State} (h : Alike p s t) :
    Alike p (saveHeld p s) (saveHeld p t) := alike_modPort h _ _ rfl
theorem alike_countPort {p : Fin 8} {s t : State} (h : Alike p s t) (f) :
    Alike p (s.countPort p f) (t.countPort p f) := alike_modPort h _ _ rfl
theorem alike_checkStarvation {p : Fin 8} {s t : State} (h : Alike p s t) :
    Alike p (checkStarvation p s) (checkStarvation p t) := by
  unfold checkStarvation; rw [h.port, alike_setting h]; split
  · exact alike_toWait (alike_saveHeld (alike_countPort h _))
  · exact h
theorem alike_checkIdleRun {p : Fin 8} {s t : State} (h : Alike p s t) :
    Alike p (checkIdleRun p s) (checkIdleRun p t) := by
  unfold checkIdleRun; rw [h.port, alike_setting h]; split
  · exact alike_toWait h
  · exact h
theorem alike_checkFlushEnd {p : Fin 8} {s t : State} (h : Alike p s t) :
    Alike p (checkFlushEnd p s) (checkFlushEnd p t) := by
  unfold checkFlushEnd; rw [h.port, alike_setting h]; split
  · exact alike_pushChange (alike_modPort h _ _ rfl) _
  · exact h
theorem alike_sendFill {p : Fin 8} {s t : State} (h : Alike p s t) : Alike p (sendFill p s) (sendFill p t) := by
  unfold sendFill; rw [alike_setting h]; exact alike_modPort h _ _ rfl
theorem alike_measureFill {p : Fin 8} {s t : State} (h : Alike p s t) :
    Alike p (measureFill p s) (measureFill p t) := by
  unfold measureFill; rw [alike_setting h]; exact alike_modPort h _ _ rfl
theorem alike_computeClock {p : Fin 8} {s t : State} (h : Alike p s t) :
    Alike p (computeClock p s) (computeClock p t) := by
  unfold computeClock; rw [alike_setting h, h.image]; exact alike_modPort h _ _ rfl
theorem alike_playTake {p : Fin 8} {s t : State} (h : Alike p s t) : Alike p (playTake p s) (playTake p t) := by
  unfold playTake; rw [alike_setting h]; exact alike_modPort h _ _ rfl
theorem alike_playInterval {p : Fin 8} {s t : State} (h : Alike p s t) :
    Alike p (playInterval p s) (playInterval p t) :=
  alike_computeClock (alike_measureFill (alike_checkStarvation (alike_playTake h)))
theorem alike_engineInterval {p : Fin 8} {s t : State} (h : Alike p s t) :
    Alike p (engineInterval p s) (engineInterval p t) := by
  unfold engineInterval; rw [h.port]
  split
  · exact h
  · exact alike_computeClock (alike_measureFill (alike_sendFill h))
  · exact alike_checkFlushEnd (alike_modPort (alike_computeClock (alike_measureFill (alike_sendFill h))) _ _ rfl)
  · rw [alike_setting h]; split
    · exact alike_playInterval (alike_pushChange (alike_modPort h _ _ rfl) _)
    · exact alike_computeClock (alike_measureFill (alike_checkIdleRun (alike_modPort (alike_sendFill h) _ _ rfl)))
  · exact alike_playInterval h
theorem circuitInterval_local : Local circuitInterval :=
  ⟨circuitInterval_onPort, fun _ _ _ h => (alike_closeTally (alike_engineInterval h)).port⟩

/-! ### Entry to CLASH -/

/-- R102: what the entry to CLASH makes of an enabled port. -/
theorem clashCircuit_port (p : Fin 8) (s : State) : (clashCircuit p s).port p =
  let q := s.port p
  let q1 : Port := if q.circuit.state == .play then { q with clk := q.clk.save } else q
  let q2 : Port := if q.circuit.state == .wait then q1 else q1.enterEmpty .wait
  { q2 with asm := { q2.asm with running := false, cell := none },
             circuit := { q2.circuit with loop := .none, tally := Tally.zero, revert := none } } := by
  unfold clashCircuit
  simp only [State.port_modPort_same]
  cases h : (s.port p).circuit.state <;> simp [saveHeld]

theorem clashCircuit_local : Local clashCircuit := by
  constructor
  · intro p s
    unfold clashCircuit; dsimp only
    refine OnPort.trans ?_ (modPort_onPort _ p _)
    have h1 : OnPort p s (if ((s.port p).circuit.state == .play) = true then saveHeld p s else s) :=
      .ite _ (saveHeld_onPort p s) (.refl _ _)
    exact .ite _ h1 (h1.trans (toWait_onPort p _))
  · intro p s t h
    rw [clashCircuit_port, clashCircuit_port, h.port]

/-! ### Lane switches and reports of presence (R40, R92 to R94, R130) -/

theorem pushChange_eq (s : State) (c : Change) :
    s.pushChange c = { s with changes := withEntry s.now c s.changes } := by
  unfold State.pushChange withEntry Config.changeCapacity
  split <;> rfl

/-- R129 to R131: at its own port the evaluation changes the delay figure and the OVER-BUDGET flag alone. -/
theorem evaluateDelay_port (p : Fin 8) (s : State) : ∃ d o, (evaluateDelay p s).port p =
    { s.port p with circuit := { (s.port p).circuit with delay := d, overBudget := o } } := by
  unfold evaluateDelay; dsimp only; split
  · split
    · exact ⟨_, _, State.port_modPort_same _ _ _⟩
    · exact ⟨_, _, by rw [State.pushChange_port]; exact State.port_modPort_same _ _ _⟩
  · exact ⟨_, _, rfl⟩

/-- A port replaced by itself. -/
theorem modPort_id (s : State) (p : Fin 8) (f : Port → Port) (h : f (s.port p) = s.port p) : s.modPort p f = s := by
  unfold State.modPort State.port at *
  rw [h]
  have : s.ports.set p (s.ports[p]) = s.ports := by
    ext i hi
    simp
  rw [this]

/-- R130, R131: computing the delay figure twice is computing it once. -/
theorem evaluateDelay_twice (p : Fin 8) (s : State) : evaluateDelay p (evaluateDelay p s) = evaluateDelay p s := by
  have hO := evaluateDelay_onPort p s
  obtain ⟨d, o, hd⟩ := evaluateDelay_port p s
  by_cases he : (s.port p).enabled = true
  · have h1 : ((evaluateDelay p s).port p).circuit.delay = s.delayFigure p ∧
        ((evaluateDelay p s).port p).circuit.overBudget = overBudgetFor (recBudget (s.setting p)) (s.delayFigure p) := by
      unfold evaluateDelay; rw [if_pos he]; dsimp only; split <;> simp
    have himg : (evaluateDelay p s).image = s.image := hO.touches.same .image (by decide)
    have hpe : (evaluateDelay p s).peers = s.peers := hO.touches.same .peers (by decide)
    have hset : (evaluateDelay p s).setting p = s.setting p := by unfold State.setting; rw [himg]
    have hfig : (evaluateDelay p s).delayFigure p = s.delayFigure p := by
      unfold State.delayFigure State.farPeer; rw [hset, hpe, hd]
    have he2 : ((evaluateDelay p s).port p).enabled = true := by rw [hd]; exact he
    generalize hu : evaluateDelay p s = u at *
    unfold evaluateDelay
    rw [if_pos he2]; dsimp only
    rw [hfig, hset, ← h1.2, ← h1.1]
    simp only [beq_self_eq_true, if_true]
    exact modPort_id _ _ _ rfl
  · have : evaluateDelay p s = s := by unfold evaluateDelay; rw [if_neg he]
    rw [this, this]

/-- R93, R94, R130: all that a lane switch does. -/
theorem switchLane_spec (p : Fin 8) (L : Lane) (s : State) : Switched p L s (switchLane p L s) := by
  have hsw := switchLane_onPort p L s
  let s1 := s.modPort p fun q =>
    { q with counts := { q.counts with laneSwitches := bump q.counts.laneSwitches }
             circuit := { q.circuit with current := some L, tally := Tally.zero, revert := s.revertTimerFor p L } }
  have hr : s.revertTimerFor p L = revertAfter p L s := by
    unfold State.revertTimerFor revertAfter
    show _ = match (recMode (s.setting p)).configured with | none => none | some c => _
    cases (recMode (s.setting p)).configured with
    | none => rfl
    | some c => by_cases h : L = c <;> simp [h, Config.ticksPerSecond]
  obtain ⟨d, o, hdo⟩ := evaluateDelay_port p (s1.pushChange (.laneSwitch p L))
  have hsl : switchLane p L s = evaluateDelay p (s1.pushChange (.laneSwitch p L)) := rfl
  rw [State.pushChange_port] at hdo
  refine ⟨?_, ?_, hsw.others, hsw.touches, ?_⟩
  · rw [hsl, hdo]; simp only [s1, State.port_modPort_same, hr]; rfl
  · rw [hsl]; exact EntryMade.of_push (s' := s1) rfl rfl (evaluateDelay_onPort p _).grows
  · rw [hsl, pushChange_eq, ← hr]; rfl
/-- R130: after a switch, computing the delay figure once more changes nothing. -/
theorem switched_evaluateDelay {p : Fin 8} {L : Lane} {s t : State} (h : Switched p L s t) :
    evaluateDelay p t = t := by
  rw [h.2.2.2.2, evaluateDelay_twice]

theorem alike_checkPresence {p : Fin 8} {s t : State} (h : Alike p s t) :
    Alike p (checkPresence p s) (checkPresence p t) := by
  unfold checkPresence; rw [h.port]; split
  · exact h
  · simp only [alike_farPresent h]; split
    · exact alike_switchLane h _
    · exact h
theorem alike_presenceRevert {p : Fin 8} {s t : State} (L : Lane) (b : Bool) (h : Alike p s t) :
    Alike p (presenceRevert p L b s) (presenceRevert p L b t) := by
  unfold presenceRevert; rw [h.port, alike_setting h]; dsimp only; simp only [alike_after h]; split
  · exact alike_modPort h _ _ rfl
  · exact h

/-- R40: a report of presence acts on its own circuit, by what it reads there. -/
theorem presenceReport_local (L : Lane) (b : Bool) : Local (presenceReport L b) := by
  refine ⟨fun p s => presenceReport_onPort L b p s, fun p s t h => ?_⟩
  unfold presenceReport; rw [h.ctl]; split
  · exact (alike_evaluateDelay (alike_checkPresence (alike_presenceRevert L b h))).port
  · exact (alike_evaluateDelay h).port
  all_goals exact h.port

/-! ### Entries that a report of presence makes (R38, R39) -/

theorem NoPresenceEntry.of_same {s t : State} (h : t.changes = s.changes) : NoPresenceEntry s t :=
  ⟨[], by simp [h], by simp⟩

theorem NoPresenceEntry.trans {s t u : State} (h : NoPresenceEntry s t) (k : NoPresenceEntry t u) :
    NoPresenceEntry s u := by
  obtain ⟨m, hm, h1⟩ := h; obtain ⟨n, hn, h2⟩ := k
  refine ⟨m ++ n, by rw [hn, hm, List.append_assoc], fun e he => ?_⟩
  rcases List.mem_append.1 he with h | h
  · exact h1 e h
  · exact h2 e h

/-- Any other entry is none of these. -/
theorem NoPresenceEntry.of_entry {s t : State} (now : Time) (c : Change)
    (hc : (∀ j L, c ≠ .peerPresent j L) ∧ ∀ j, c ≠ .peerAbsent j)
    (h : t.changes = withEntry now c s.changes) : NoPresenceEntry s t := by
  unfold NoPresenceEntry
  rw [h, withEntry]
  split
  · exact ⟨[⟨now, c⟩], rfl, by simpa using hc⟩
  · exact ⟨[], by simp, by simp⟩

theorem NoPresenceEntry.push (s : State) (c : Change)
    (hc : (∀ j L, c ≠ .peerPresent j L) ∧ ∀ j, c ≠ .peerAbsent j) : NoPresenceEntry s (s.pushChange c) :=
  NoPresenceEntry.of_entry _ _ hc (pushChange_changes s c)

theorem evaluateDelay_noPresence (p : Fin 8) (s : State) : NoPresenceEntry s (evaluateDelay p s) := by
  unfold evaluateDelay; dsimp only; split
  · split
    · exact NoPresenceEntry.of_same rfl
    · exact NoPresenceEntry.trans (NoPresenceEntry.of_same (t := s.modPort p _) rfl)
        (NoPresenceEntry.push _ _ (by simp))
  · exact NoPresenceEntry.of_same rfl

/-- R40: what a report of presence enters is a lane switch or a budget change, and no change of presence. -/
theorem presenceReport_noPresence (L : Lane) (b : Bool) (p : Fin 8) (s : State) :
    NoPresenceEntry s (presenceReport L b p s) := by
  unfold presenceReport
  split
  · refine NoPresenceEntry.trans ?_ (evaluateDelay_noPresence _ _)
    have h1 : NoPresenceEntry s (presenceRevert p L b s) := by
      unfold presenceRevert; dsimp only; split <;> exact NoPresenceEntry.of_same rfl
    refine NoPresenceEntry.trans h1 ?_
    unfold checkPresence; split
    · exact NoPresenceEntry.of_same rfl
    · split
      · rw [(switchLane_spec p _ _).2.2.2.2]
        exact NoPresenceEntry.trans (NoPresenceEntry.of_entry _ _ (by simp) rfl)
          (evaluateDelay_noPresence _ _)
      · exact NoPresenceEntry.of_same rfl
  · exact evaluateDelay_noPresence _ _
  all_goals exact NoPresenceEntry.of_same rfl

/-- R40: and so what the reports to a peer's circuits enter. -/
theorem reports_noPresence (L : Lane) (b : Bool) : ∀ (l : List (Fin 8)) (s : State),
    NoPresenceEntry s (l.foldl (fun x p => presenceReport L b p x) s)
  | [], _ => NoPresenceEntry.of_same rfl
  | p :: l, s => NoPresenceEntry.trans (presenceReport_noPresence L b p s) (reports_noPresence L b l _)

end Sys2Proof.Machine
end

