-- ==== Sys2Proof/Laws/Octets.lean ====
section
/-! SUPPORT. Fields of records: what is read back from octets that were laid out one after another (R183), and the
check register's octets bit by bit (R184). -/

namespace Sys2Proof.Machine

open Sys2Proof.Safety

theorem be16_read (v : BitVec 16) : (v.extractLsb' 8 8 ++ v.extractLsb' 0 8 : BitVec 16) = v := by
  apply BitVec.eq_of_toNat_eq
  have e : ∀ a b : Nat, b < 256 → a <<< 8 ||| b = a * 256 + b := by
    intro a b h; rw [← Nat.shiftLeft_add_eq_or_of_lt (show b < 2^8 by omega), Nat.shiftLeft_eq]
  simp only [BitVec.toNat_append, BitVec.extractLsb'_toNat, Nat.shiftRight_eq_div_pow]
  rw [e _ _ (by omega)]
  have := v.isLt
  omega

theorem be32_read (v : BitVec 32) : (v.extractLsb' 24 8 ++ v.extractLsb' 16 8 : BitVec 16) ++
    (v.extractLsb' 8 8 ++ v.extractLsb' 0 8 : BitVec 16) = v := by
  apply BitVec.eq_of_toNat_eq
  have e : ∀ a b : Nat, b < 256 → a <<< 8 ||| b = a * 256 + b := by
    intro a b h; rw [← Nat.shiftLeft_add_eq_or_of_lt (show b < 2^8 by omega), Nat.shiftLeft_eq]
  have e2 : ∀ a b : Nat, b < 65536 → a <<< 16 ||| b = a * 65536 + b := by
    intro a b h; rw [← Nat.shiftLeft_add_eq_or_of_lt (show b < 2^16 by omega), Nat.shiftLeft_eq]
  simp only [BitVec.toNat_append, BitVec.extractLsb'_toNat, Nat.shiftRight_eq_div_pow]
  rw [e _ _ (by omega), e _ _ (by omega), e2 _ _ (by omega)]
  have := v.isLt
  omega


theorem oct_append_left (a b : Octets) (i : Nat) (h : i < a.length) : oct (a ++ b) i = oct a i := by
  simp [oct, List.getD_eq_getElem?_getD, List.getElem?_append_left h]

theorem oct_append_right (a b : Octets) (i : Nat) : oct (a ++ b) (a.length + i) = oct b i := by
  unfold oct
  rw [List.getD_eq_getElem?_getD, List.getD_eq_getElem?_getD, List.getElem?_append_right (by omega),
    Nat.add_sub_cancel_left]

/-! ### The check register (R184) -/

/-- One step of the check register splits over the octet that is joined to it. -/
theorem crcBit_xor (c d : BitVec 32) : crcBit (c ^^^ d) = checkStep c d.msb ^^^ (d <<< 1) := by
  unfold crcBit checkStep
  have h : (c ^^^ d).getLsbD 31 = (c.msb ^^ d.msb) := by
    rw [BitVec.getLsbD_xor]; rfl
  rw [h, BitVec.shiftLeft_xor_distrib]
  cases c.msb <;> cases d.msb <;> simp <;> ac_rfl

/-- R184: an octet goes into the check register bit by bit, the most significant first. -/
theorem crcOctet_bits (c : BitVec 32) (b : Byte) :
    crcOctet c b = ((List.range 8).map fun i => b.getMsbD i).foldl checkStep c := by
  unfold crcOctet
  have hm : ∀ i < 8, ((b.setWidth 32 <<< 24) <<< i).msb = b.getMsbD i := by
    intro i hi
    rw [← BitVec.shiftLeft_add, BitVec.msb_eq_getLsbD_last, BitVec.getLsbD_shiftLeft, BitVec.getLsbD_setWidth,
      BitVec.getMsbD]
    have : 32 - 1 - (24 + i) = 8 - 1 - i := by omega
    rw [this]
    have a1 : ¬ (31 < 24 + i) := by omega
    have a2 : 7 - i < 32 := by omega
    simp [hi, a1, a2]
  have key : ∀ (k : Nat) (x : BitVec 32), k < 8 → crcBit (x ^^^ ((b.setWidth 32 <<< 24) <<< k)) =
      checkStep x (b.getMsbD k) ^^^ ((b.setWidth 32 <<< 24) <<< (k + 1)) := by
    intro k x hk
    rw [crcBit_xor, hm k hk, ← BitVec.shiftLeft_add _ k 1]
  have h0 : (b.setWidth 32 <<< 24) = ((b.setWidth 32 <<< 24) <<< 0) := by simp
  rw [h0, key 0 _ (by decide), key 1 _ (by decide), key 2 _ (by decide), key 3 _ (by decide), key 4 _ (by decide),
    key 5 _ (by decide), key 6 _ (by decide), key 7 _ (by decide)]
  have hz : (b.setWidth 32 <<< 24) <<< (7 + 1) = 0 := by
    rw [← BitVec.shiftLeft_add]; exact BitVec.shiftLeft_eq_zero (by decide)
  rw [hz]
  simp [List.range, List.range.loop]

end Sys2Proof.Machine
end

