-- ==== Sys2Proof/WellFormed.lean ====
section
/-! DEFINITION. Which commands are well formed: the operand values that the event of the row can carry.  Ports,
commands and peer indexes are in range by their types. -/

namespace Sys2Proof

/-- A station number of a station on the ring, 1..62 (scope, section 7). -/
def stationNumberOk (n : BitVec 6) : Bool := 1 ≤ n.toNat && n.toNat ≤ 62

/-- A QRY that reaches the responder comes from a station (R3: a source of 0 or 63 is malformed) and is
addressed to a station or to 63 (R3: a destination of 0 is malformed). -/
def QueryHead.wellFormed (q : QueryHead) : Bool := stationNumberOk q.src && q.dst != 0

/-- The checks on a command's operands. -/
def Instr.wellFormed : Instr → Bool
  | .duplicateEntryExpiry st => stationNumberOk st
  | .readStation q => q.wellFormed
  | .readCircuit q => q.wellFormed
  | .readPeer q => q.wellFormed
  | .readCommand q => q.wellFormed
  | .drain q => q.wellFormed
  | .setLoopLine q => q.wellFormed
  | .setLoopLocal q => q.wellFormed
  | .clearLoop q => q.wellFormed
  | .clearCounts q => q.wellFormed
  | .restart q => q.wellFormed
  | .unknownQueryKind code q => q.wellFormed && !(1 ≤ code.toNat && code.toNat ≤ 10)
  | .loadByte b => b != 0xE0
  | .coldReset | .resetRelease _ _ | .frameArrival _ _ | .transmissionCompletion _ | .echoUnmeasured _ _
  | .markPeriodExpiry | .returnTimerExpiry _ | .presenceTimerExpiry _ _ | .octetReceived _ _
  | .losAsserted _ | .losDeasserted _ | .silenceTimerExpiry _ | .stationCellCompletion _ | .intervalEvent
  | .starvation _ | .idleRunLimit _ | .flushEnd _ | .trafficSwitch _ | .revertTimerExpiry _ | .echoRound
  | .ciChange _ _ | .qualificationExpiry _ | .repeatTimerExpiry _ | .answerTimerExpiry _
  | .persistenceTimerExpiry _ | .holdTimerExpiry _ | .sequenceTimerExpiry _ | .tkChange _ _
  | .takenWindowExpiry _ | .blockChange _ | .quietExpiry | .busStart | .busStop | .addressByte _
  | .dataByte _ | .close | .bitSampled _ _ | .txcFallingEdge _ => true

end Sys2Proof
end

