-- ==== Sys2Proof/Tests/Slice0.lean ====
section
/-! SUPPORT. The model's own tests: ill-formed commands, the specification's worked examples one step at a time,
and, for every statement with hypotheses, a concrete state and operands that meet them (`test_meets_…`). -/

namespace Sys2Proof.Tests

open Sys2Proof.Machine Sys2Proof.Safety

-- The tests are checked one after another: together they would take more threads than the check allows.
set_option Elab.async false

/-! ### Well-formedness: one ill-formed command for each check -/

/-- A query that every check admits. -/
def head : QueryHead := ⟨9, 5, 2, 0x0101⟩

theorem test_wellFormed_station_zero : (Instr.duplicateEntryExpiry 0).wellFormed = false := by decide
theorem test_wellFormed_station_all : (Instr.duplicateEntryExpiry 63).wellFormed = false := by decide
theorem test_wellFormed_query_source :
    (Instr.readStation { head with src := 0 }).wellFormed = false ∧
    (Instr.drain { head with src := 63 }).wellFormed = false := by decide
theorem test_wellFormed_query_destination : (Instr.readPeer { head with dst := 0 }).wellFormed = false := by decide
theorem test_wellFormed_query_kind :
    (Instr.unknownQueryKind 1 head).wellFormed = false ∧ (Instr.unknownQueryKind 10 head).wellFormed = false := by
  decide
theorem test_wellFormed_load_byte : (Instr.loadByte 0xE0).wellFormed = false := by decide
theorem test_wellFormed_accepts :
    (Instr.duplicateEntryExpiry 62).wellFormed = true ∧ (Instr.restart head).wellFormed = true ∧
    (Instr.unknownQueryKind 11 head).wellFormed = true ∧ (Instr.loadByte 0x20).wellFormed = true := by decide

/-! ### A small station -/

/-- Enabled, class S, PIN-A; far station 9, far port 3; target 2, flush 1, starvation 3, switch limit 2, revert
wait 10, gain 8; fill mode IDLE with 0x7E; budget 10 (section 11.5). -/
def circuitRec : CircuitRecord := #v[0x89, 9, 3, 2, 1, 3, 2, 10, 8, 1, 0x7E, 0, 10]

/-- BOTH, far station 9, qualification 2, answer timeout 40, taken window 20, minimum hold 50. -/
def commandRec : CommandRecord := #v[3, 9, 2, 40, 20, 50]

def image : Image :=
  { Image.reset with
    station := #v[0, 0, 0, 7, 0, 100]
    circuits := Image.reset.circuits.set 2 circuitRec
    commands := Image.reset.commands.set 0 commandRec }

def peerLane : PeerLane := ⟨true, some 2, some 300000, none, 0, [41180], some 20590⟩

def peer : Peer := ⟨9, 4, 1, PerLane.both peerLane⟩

def outgoing : Outgoing := ⟨.idle, 5, .none, none, 0, none, none⟩

def incoming : Incoming := ⟨.idle, none, none, none, none, none, none, none⟩

def command : Command := ⟨false, false, false, false, none, some outgoing, some incoming⟩

/-- Port 2 in PLAY at count 500 with that cell held. -/
def port2 : Port :=
  { Port.reset with
    rx := ⟨[], false, .present, some 20000⟩
    asm := ⟨true, some (.line []), 20⟩
    engine := ⟨(Vector.replicate 16 none).set 4 (some ⟨500, List.replicate 8 0x55, false, some .A⟩),
      some ⟨500, 0⟩, 8, 0, 0, false⟩
    clk := ⟨0, 0, 0, 0, 8⟩
    circuit := ⟨.play, 0, some .A, Tally.zero, none, false, false, .none, none⟩ }

/-- Station 5 in RUN at time 0, one circuit and one command, both to station 9. -/
def st : State :=
  { State.reset with
    rstLow := false
    ctl := ⟨.run, some 5, none, 0⟩
    image := image
    peers := [peer]
    ports := State.reset.ports.set 2 port2
    cmds := State.reset.cmds.set 0 command }

/-- The same station in another station state. -/
def stIn (x : StationState) (timer : Timer) : State := { st with ctl := { st.ctl with station := x, quiet := timer } }

def onPort (f : Port → Port) : State := st.modPort 2 f

def inCircuit (f : Circuit → Circuit) : State := onPort fun q => { q with circuit := f q.circuit }

def withOutgoing (o : Outgoing) : State := st.modCmd 0 fun c => { c with outgoing := some o }

def withIncoming (r : Incoming) : State := st.modCmd 0 fun c => { c with incoming := some r }

def withLane (l : PeerLane) : State := { st with peers := [{ peer with lanes := PerLane.both l }] }

def withForwarder (l : Forwarder) : State := st.modForwarder .A fun _ => l

/-- A configuration write in progress before the image is closed. -/
def writing (c : ConfigPort → ConfigPort) : State :=
  { State.reset with
    rstLow := false
    ctl := ⟨.load, some 5, none, 0⟩
    image := image
    cfg := c { ConfigPort.reset with phase := .writing } }

theorem settled_of {s : State} (h : s.lanes = PerLane.both Forwarder.reset) : Settled s := by
  intro L; unfold State.forwarder; rw [h]; cases L <;> exact fun _ => ⟨rfl, rfl⟩

theorem settled_st : Settled st := settled_of rfl

/-- The next state of a command; every command has one. -/
def after (c : Instr) (s : State) : State :=
  match exec c s with
  | .next t => t
  | .fault _ => s
  | .refused _ => s

/-! ### Witnesses: the whole machine -/

theorem test_meets_StepRunsFrontCommand :
    ({ st with pending := [.intervalEvent, .busStart] } : State).pending = .intervalEvent :: [.busStart] := rfl

/-- A state with a command in front, as the kept properties take it. -/
def lossNext : State := { st with pending := [.losAsserted 2] }

theorem test_meets_QueuesKept : QueuesOk lossNext ∧ ∃ t, step lossNext = .next t := by
  refine ⟨⟨?_, settled_of rfl, by decide, by decide⟩, _, rfl⟩
  intro L; cases L <;> exact ⟨by decide, by decide⟩

theorem test_meets_ClockLoopsKept : ClockLoopsOk lossNext ∧ ∃ t, step lossNext = .next t := by
  refine ⟨?_, _, rfl⟩
  unfold ClockLoopsOk ClockLoopOk; decide +kernel

theorem test_meets_OutputsKept : OutputsFollow lossNext ∧ ∃ t, step lossNext = .next t := by
  refine ⟨?_, _, rfl⟩
  have h : ∀ k : Fin 4, (lossNext.cmd k).co = false ∧
      ((lossNext.cmd k).incoming = none ∨ (lossNext.cmd k).incoming = some incoming) := by decide +kernel
  intro k
  obtain ⟨h1, h2⟩ := h k
  unfold OutputFollows
  constructor
  · intro x; rw [h1] at x; cases x
  · rintro ⟨r, hr, hs⟩
    rcases h2 with h2 | h2 <;> rw [h2] at hr <;> cases hr
    rcases hs with hs | hs <;> cases hs

theorem test_meets_PeersKept : PeersOk lossNext ∧ ∃ t, step lossNext = .next t := by
  refine ⟨⟨by decide, ?_⟩, _, rfl⟩
  intro r hr L
  have hr : r = peer := by simpa [lossNext, st] using hr
  subst hr
  have : peer.lanes.get L = peerLane := by cases L <;> rfl
  rw [this]
  refine ⟨by decide, by decide, by decide, by decide, ?_⟩
  intro f hf
  cases hf
  exact ⟨41180, by decide, by decide, by decide⟩

theorem test_meets_EnginesKept : EnginesOk lossNext ∧ ∃ t, step lossNext = .next t := by
  refine ⟨?_, _, rfl⟩
  have h1 : ∀ (p : Fin 8) (i : Fin 16), p ≠ 2 ∨ i ≠ 4 → (lossNext.port p).engine.buffer[i] = none := by decide +kernel
  have h2 : ∀ p : Fin 8, p ≠ 2 → (lossNext.port p).engine.position = none := by decide +kernel
  have h3 : (lossNext.port 2).circuit.state = .play := by decide +kernel
  have h4 : (lossNext.port 2).engine.buffer[(4 : Fin 16)] = some ⟨500, List.replicate 8 0x55, false, some .A⟩ := by
    decide +kernel
  intro p
  constructor
  · intro i h hi
    by_cases e : p ≠ 2 ∨ i ≠ 4
    · rw [h1 p i e] at hi; cases hi
    · have : p = 2 ∧ i = 4 := by constructor <;> by_contra x <;> exact e (by simp [x])
      obtain ⟨rfl, rfl⟩ := this
      have hi : (lossNext.port 2).engine.buffer[(4 : Fin 16)] = some h := hi
      rw [h4] at hi; cases hi
      exact ⟨by decide, ⟨500, 0⟩, by decide +kernel, by decide⟩
  · intro x
    by_cases e : p = 2
    · subst e; rw [h3] at x; rcases x with x | x | x <;> cases x
    · exact h2 p e

/-- The end of the quiet period. -/
def quietEnds : State := { stIn .quiet (some 0) with pending := [.quietExpiry] }

theorem stationOk_quiet : StationOk quietEnds :=
  ⟨by decide, by intro n h; cases h; exact ⟨by decide, by decide⟩, by decide⟩

theorem test_meets_StationKept : StationOk quietEnds ∧ ∃ t, step quietEnds = .next t := ⟨stationOk_quiet, _, rfl⟩

theorem test_meets_StationTransitions :
    StationOk quietEnds ∧ Instr.quietExpiry ≠ .coldReset ∧ (∀ a b, Instr.quietExpiry ≠ .resetRelease a b) ∧
    ∃ t, exec .quietExpiry quietEnds = .next t := by
  refine ⟨stationOk_quiet, by decide, ?_, _, rfl⟩
  intro a b h; cases h

theorem test_meets_ImageFixedOnceClosed :
    st.closed = true ∧ st.rstLow = false ∧ Instr.restart head ≠ .coldReset ∧ ∃ t, exec (.restart head) st = .next t :=
  ⟨by decide, by decide, by decide, _, rfl⟩

/-- Straps at both ends of the valid numbers and just outside them. -/
theorem test_meets_ColdResetAndRelease :
    State.reset.rstLow = true ∧ (1 ≤ (1 : BitVec 6).toNat ∧ (62 : BitVec 6).toNat ≤ 62) ∧
    ¬(1 ≤ (0 : BitVec 6).toNat) ∧ ¬((63 : BitVec 6).toNat ≤ 62) := by decide

/-! ### Witnesses: chapter 1 -/

def urgent : Octets := buildFrame .cmd 5 9 7 (zeros 47)
def ordinary : Octets := buildFrame .trib 5 9 8 (zeros 47)
def echoWaiting : Octets := buildFrame .echo 5 9 9 (zeros 47)

theorem test_meets_ArbiterOrder :
    let counts := LaneCounters.zero
    ((withForwarder ⟨[], [], .sending ordinary, counts⟩).forwarder .A).egress = .sending ordinary ∧
    ((withForwarder ⟨[], [], .idle, counts⟩).forwarder .A).transit = [] ∧
    (let l := (withForwarder ⟨[ordinary], [ordinary, urgent, urgent], .idle, counts⟩).forwarder .A
     l.egress = .idle ∧ l.localQ = [ordinary] ++ urgent :: [urgent] ∧ isUrgent ordinary = false ∧
       isUrgent urgent = true) ∧
    (let l := (withForwarder ⟨[ordinary], [ordinary], .idle, counts⟩).forwarder .A
     l.egress = .idle ∧ (∀ g ∈ l.localQ, isUrgent g = false) ∧ l.transit = ordinary :: []) ∧
    (let l := (withForwarder ⟨[], [ordinary], .idle, counts⟩).forwarder .A
     l.egress = .idle ∧ (∀ g ∈ l.localQ, isUrgent g = false) ∧ l.transit = [] ∧ l.localQ = ordinary :: []) := by
  decide +kernel

/-- The lane part that lane A's ECHO is filed in holds no outstanding echo, one at the last count that only adds, and
one at the count that empties. -/
theorem test_meets_EchoStampedAndFiled :
    let s (l : PeerLane) : State :=
      (withLane l).modForwarder .A fun _ => ⟨[], [echoWaiting], .idle, LaneCounters.zero⟩
    ∀ l ∈ [peerLane, { peerLane with outstanding := some 7, missed := 1 },
        { peerLane with outstanding := some 7, missed := 2 }],
      ((s l).forwarder .A).egress = .idle ∧ ((s l).forwarder .A).transit = [] ∧
      ((s l).forwarder .A).localQ = echoWaiting :: [] ∧ oct echoWaiting 0 = 3 ∧ 13 ≤ echoWaiting.length ∧
      ((s l).peers[0]?).map (·.station) = some (frameDest echoWaiting) ∧
      ((s l).peers[0]?).map (·.lanes.b) = some l := by decide +kernel

/-- Idle lanes, and lanes that are sending with room for one frame and with a full queue. -/
theorem test_meets_OriginationRule :
    (st.ctl.station = .run ∧ Settled st ∧ [Lane.A, Lane.B].Nodup ∧ FrameKind.trib ≠ .echo ∧
      (st.forwarder .A).egress = .idle) ∧
    (stIn .clash none).ctl.station ≠ .run ∧
    (∀ n ∈ [11, 12], let s := { st with
        lanes := PerLane.both ⟨[], List.replicate n ordinary, .sending ordinary, LaneCounters.zero⟩ }
      s.ctl.station = .run ∧ (∀ L ∈ [Lane.A, .B], (s.forwarder L).egress ≠ .idle) ∧
      (s.forwarder .A).localQ.length = n) ∧
    (∀ k ∈ [FrameKind.echo, .echoR, .trib], 21 ≤ (buildFrame k 5 9 0 (zeros 12)).length) :=
  ⟨⟨by decide, settled_st, by decide, by decide, by decide⟩, by decide, by decide +kernel, by decide⟩

/-- The longest body, and a frame with the last hop left. -/
theorem test_meets_FramesReadBack :
    (List.replicate 65535 (0 : Byte)).length < 65536 ∧
    (let f := withCheck ((buildFrame .cmd 9 7 3 (zeros 47)).set 4 1)
     checkPasses f = true ∧ 1 ≤ frameHop f) := by
  refine ⟨by rw [List.length_replicate]; decide, by decide +kernel⟩

theorem test_meets_TransmissionCompletes :
    let s (t q : List Octets) : State := withForwarder ⟨t, q, .sending ordinary, LaneCounters.zero⟩
    (∀ x ∈ [s [] [], s [ordinary] [ordinary, urgent], s [ordinary] [ordinary], s [] [ordinary]],
      x.rstLow = false ∧ (x.forwarder .A).egress = .sending ordinary) ∧
    ((s [ordinary] [ordinary, urgent]).forwarder .A).localQ = [ordinary] ++ urgent :: [] := by decide +kernel

/-- An own frame of station 5, a frame in transit from 9 to 7 at hop count 1 and 0. -/
theorem test_meets_ArrivalDecided :
    let own := withCheck ordinary
    let transit (hop : Byte) := withCheck ((buildFrame .cmd 9 7 3 (zeros 47)).set 4 hop)
    Settled st ∧ st.rstLow = false ∧ checkPasses [] = false ∧
    (checkPasses own = true ∧ st.ctl.number = some (frameSource own) ∧ oct own 0 ≠ 2) ∧
    (∀ h ∈ [(0 : Byte), 1], checkPasses (transit h) = true ∧ frameHop (transit h) = h.toNat ∧
      st.ctl.number ≠ some (frameSource (transit h)) ∧ st.ctl.number ≠ some (frameDest (transit h)) ∧
      frameDest (transit h) ≠ 63) := ⟨settled_st, by decide +kernel⟩

/-- A MARK of station 9 that states RUN, with this destination and hop count. -/
def peerFrame (dst : Nat) (hop : Byte) : Octets :=
  withCheck ((buildFrame .mark 9 dst 0 (be32 8 ++ [3] ++ zeros 42)).set 4 hop)

/-- Own MARKs that are stripped without more: one whose version is wrong, and a well-formed one in LOAD and CLASH. -/
theorem test_meets_ArrivalDecided_ownMark :
    let f (version : Byte) := withCheck ((buildFrame .mark 5 63 0 (zeros 47)).set 1 version)
    (∀ v ∈ [(1 : Byte), 2], checkPasses (f v) = true ∧ st.ctl.number = some (frameSource (f v)) ∧
      malformed (f v) = decide (v = 2)) ∧
    (∀ x ∈ [StationState.load, .clash], (stIn x none).ctl.station = x ∧ (stIn x none).rstLow = false) := by
  decide +kernel

/-- Frames to this station that end here: malformed in RUN, and well-formed in LOAD and CLASH, with a hop left or none. -/
theorem test_meets_ArrivalDecided_ends :
    (∀ h ∈ [(0 : Byte), 1], let f := peerFrame 5 h
      checkPasses f = true ∧ malformed f = false ∧ frameSource f ≠ 5 ∧ frameDest f = 5 ∧ frameHop f = h.toNat) ∧
    (let f := withCheck ((buildFrame .mark 9 5 0 (zeros 47)).set 1 2)
     checkPasses f = true ∧ malformed f = true ∧ frameSource f ≠ 5 ∧ frameDest f = 5) ∧
    (stIn .load none).ctl.number = some 5 := by decide +kernel

/-- A peer present on lane B alone. -/
def halfPeer : Peer := { peer with lanes := ⟨PeerLane.reset, peerLane⟩ }

def withHalfPeer : State := { st with peers := [halfPeer] }

/-- MARKs that are delivered: to 63 with the last hop left and with none, and to this station; from a peer present on
both lanes, from one absent on both, from one present on the other lane alone, and from a station without a record. -/
theorem test_meets_ArrivalDecided_marks :
    (∀ h ∈ [(0 : Byte), 1, 63], ∀ d ∈ [63, 5], let f := peerFrame d h
      checkPasses f = true ∧ malformed f = false ∧ frameSource f = 9 ∧ frameDest f = d ∧ frameHop f = h.toNat ∧
      oct f 0 = 2 ∧ oct (frameBody f) 4 = 3) ∧
    (st.peers[0]?).map (·.station) = some 9 ∧ (peer.lanes.get .A).present = true ∧
    ((withLane PeerLane.reset).peers[0]?).map (fun r => ((r.lanes.get .A).present, (r.lanes.get .B).present)) =
      some (false, false) ∧
    (withHalfPeer.peers[0]?).map (fun r => ((r.lanes.get .A).present, (r.lanes.get .B).present)) = some (false, true) ∧
    (∀ r ∈ ({ st with peers := [] } : State).peers, r.station ≠ 9) ∧ st.ctl.number = some 5 := by decide +kernel

/-! ### Witnesses: chapter 2 -/

/-- The window of the worked example of section 2.2: front 65,530, positions 0 and 2 set. -/
def window12 : DupEntry := ⟨65530, 0b101, 2000000⟩

/-- Both ends of every row of R27's table. -/
theorem test_meets_WindowTable :
    let d (seq : BitVec 16) := (window12.front - seq).toNat
    (d 65530 = 0 ∧ window12.window.getLsbD 0 = true) ∧ (d 65467 = 63 ∧ window12.window.getLsbD 63 = false) ∧
    d 65466 = 64 ∧ d 32762 = 32768 ∧ d 32761 = 32769 ∧ d 65531 = 65535 ∧
    judgeSequence (some window12) 65531 = .accepted 65531 0b1011 := by decide +kernel

def cmdFrame (seq : BitVec 16) : Octets := withCheck (buildFrame .cmd 9 5 seq ([1, 1, 7] ++ zeros 44))

/-- A TRIB from station 9 port 3 to port 2. -/
def tribFrame : Octets :=
  withCheck (buildFrame .trib 9 5 44 (tribBody 2 3 .S false (some .B) 501 (List.replicate 8 0x11)))

def withWindow (s : State) : State := s.setDup 9 (some window12)

theorem test_meets_DeliveryFilter_state :
    ∀ s ∈ [withWindow st, withWindow (stIn .quiet (some 2500000))],
      s.rstLow = false ∧ s.ctl.number = some 5 ∧ (s.ctl.station = .quiet ∨ s.ctl.station = .run) := by decide +kernel

theorem test_meets_DeliveryFilter_frame :
    let f := cmdFrame 3
    checkPasses f = true ∧ malformed f = false ∧ frameSource f ≠ 5 ∧ frameDest f = 5 ∧ oct f 0 ≠ 2 ∧
    frameSeq f = 3 ∧ judgeSequence (some window12) (frameSeq f) = .accepted 3 ((0b101 : BitVec 64) <<< 9 ||| 1) := by
  decide +kernel

theorem test_meets_DeliveryFilter_discarded :
    (let f := cmdFrame 65530
     checkPasses f = true ∧ judgeSequence (some window12) (frameSeq f) = .duplicate) ∧
    (let f := cmdFrame 32762
     checkPasses f = true ∧ judgeSequence (some window12) (frameSeq f) = .stale) := by decide +kernel

/-- Frames that the lane filter passes: a CMD, the TRIB on the current lane, on either lane of a FIRST circuit, and in
QUIET. -/
theorem test_meets_DeliveryFilter_lane :
    ¬LaneDrops .B (cmdFrame 3) (withWindow st) ∧ ¬LaneDrops .A tribFrame (withWindow st) ∧
    ¬LaneDrops .B tribFrame (inCircuit fun c => { c with current := none }) ∧
    ¬LaneDrops .B tribFrame (stIn .quiet (some 2500000)) := by
  unfold LaneDrops; decide +kernel

/-- A frame to this station, and one to 63 with the last hop left and with none. -/
theorem test_meets_DeliveryFilter_delivered :
    (∀ p ∈ [(5, (9 : Byte)), (63, 1), (63, 0)],
      let f := withCheck ((buildFrame .cmd 9 p.1 3 ([1, 1, 7] ++ zeros 44)).set 4 p.2)
      checkPasses f = true ∧ malformed f = false ∧ frameSource f ≠ 5 ∧ frameDest f = p.1 ∧ frameHop f = p.2.toNat) ∧
    ¬LaneDrops .A tribFrame st ∧ LaneDrops .B tribFrame st ∧
    judgeSequence none (frameSeq tribFrame) = .accepted 44 1 := by
  unfold LaneDrops; decide +kernel

theorem test_meets_DeliveryFilter_trib :
    let f := tribFrame
    checkPasses f = true ∧ malformed f = false ∧ frameSource f = 9 ∧ frameDest f = 5 ∧ oct f 0 = 1 ∧
    tribDestPort (frameBody f) = 2 ∧ frameSource f = recFarStation (st.setting 2) ∧
    tribSourcePort (frameBody f) = recFarPort (st.setting 2) := by decide +kernel

theorem test_meets_DeliveryFilter_port :
    (st.port 2).enabled = true ∧ (st.port 2).circuit.current = some (Lane.other .B) := by decide +kernel

/-- An own MARK with an instance value, back after one hop. -/
def ownMark (value : BitVec 32) : Octets :=
  withCheck ((buildFrame .mark 5 63 0 (be32 value ++ [3] ++ zeros 42)).set 4 58)

def markDue : State := { st with markTimer := some 0 }

theorem test_meets_OwnMarks :
    (markDue.rstLow = false ∧ markDue.ctl.station = .run ∧ Settled markDue ∧ markDue.markTimer = some 0 ∧
      expired markDue.now 0 = true) ∧
    (let f := ownMark 7
     checkPasses f = true ∧ malformed f = false ∧ st.ctl.number = some (frameSource f) ∧ oct f 0 = 2 ∧
     rd32 (frameBody f) 0 = st.image.instanceValue ∧ (stIn .quiet (some 9)).ctl.station = .quiet ∧
     (st.mark .A).state = .closed ∧ ((st.modMark .A fun m => { m with state := .opened }).mark .A).state = .opened) :=
  ⟨⟨by decide, by decide, settled_of rfl, by decide, by decide⟩, by decide +kernel⟩

theorem test_meets_ForeignMarkClashes :
    let f := ownMark 8
    checkPasses f = true ∧ malformed f = false ∧ st.ctl.number = some (frameSource f) ∧ oct f 0 = 2 ∧
    rd32 (frameBody f) 0 ≠ st.image.instanceValue ∧ st.ctl.station = .run ∧ st.rstLow = false ∧
    (st.port 2).enabled = true ∧ (st.port 3).enabled = false := by decide +kernel

/-- A peer present on both lanes, one absent on both, and one present on the other lane alone. -/
theorem test_meets_PeerMarkHeard :
    st.peers[0]? = some peer ∧ (peer.lanes.get .A).present = true ∧
    (withLane PeerLane.reset).peers[0]? = some { peer with lanes := PerLane.both PeerLane.reset } ∧
    (PeerLane.reset).present = false ∧
    withHalfPeer.peers[0]? = some halfPeer ∧ (halfPeer.lanes.get .A).present = false ∧
    (halfPeer.lanes.get .B).present = true := by decide +kernel

theorem test_meets_RingTimersExpire :
    (let s := st.modMark .A fun m => { m with returnTimer := some 0 }
     s.rstLow = false ∧ (s.mark .A).returnTimer = some 0 ∧ expired s.now 0 = true) ∧
    (let s := st.setDup 62 (some ⟨1, 1, 0⟩)
     s.rstLow = false ∧ s.dupEntry (62 : BitVec 6).toNat = some ⟨1, 1, 0⟩ ∧ expired s.now 0 = true) ∧
    (let l : PeerLane := { peerLane with presenceTimer := some 0 }
     let s := { st with peers := [{ peer with lanes := ⟨l, PeerLane.reset⟩ }] }
     s.peers[(0 : Fin 12).val]? = some { peer with lanes := ⟨l, PeerLane.reset⟩ } ∧ l.presenceTimer = some 0 ∧
     expired s.now 0 = true ∧ l.present = true ∧ PeerLane.reset.present = false) ∧
    (let l : PeerLane := { peerLane with presenceTimer := some 0 }
     let s := { st with peers := [{ peer with lanes := ⟨l, peerLane⟩ }] }
     s.peers[(0 : Fin 12).val]? = some { peer with lanes := ⟨l, peerLane⟩ } ∧ peerLane.present = true) := by
  decide +kernel

/-! ### Witnesses: chapters 3 and 4 -/

/-- Six and seven octets held of a cell of eight; a LOST line with and without an assembler, in local loop too; a
PRESENT line without an assembler; LOSk asserted. -/
theorem test_meets_OctetReceived :
    (∀ n ∈ [0, 6, 7], ∀ loop ∈ [LoopState.none, .loc],
      let s := onPort fun q => { q with asm := { q.asm with cell := some (.line (List.replicate n 1)) },
                                        circuit := { q.circuit with loop := loop } }
      s.rstLow = false ∧ (s.port 2).rx.los = false ∧ (s.port 2).rx.line = .present ∧
      (s.port 2).asm.cell = some (.line (List.replicate n 1)) ∧ recN (s.setting 2) = 8 ∧ s.ctl.station = .run ∧
      (s.port 2).circuit.loop = loop) ∧
    (∀ loop ∈ [LoopState.none, .loc],
      let s := onPort fun q => { q with rx := { q.rx with line := .lost, silence := none },
                                        asm := { q.asm with cell := some (.station 10000) },
                                        circuit := { q.circuit with loop := loop } }
      (s.port 2).rx.line = .lost ∧ (s.port 2).rx.los = false ∧ (s.port 2).asm.cell = some (.station 10000) ∧
      (s.port 2).circuit.loop = loop) ∧
    (let s := onPort fun q => { q with asm := Assembler.reset }
     (s.port 2).rx.line = .present ∧ (s.port 2).rx.los = false ∧ (s.port 2).asm.cell = none) ∧
    ((onPort fun q => { q with rx := ⟨[], true, .lost, none⟩ }).port 2).rx.los = true ∧
    ((st.port 3).rx.line = .lost ∧ (st.port 3).asm.cell = none) := by decide +kernel

theorem test_meets_OctetReceived_settled :
    Settled (onPort fun q => { q with asm := { q.asm with cell := some (.line (List.replicate 7 1)) } }) :=
  settled_of rfl

theorem test_meets_LossAndStationTiming :
    (∀ c ∈ [none, some (CellTiming.line []), some (CellTiming.line [1, 2, 3])], ∀ loop ∈ [LoopState.none, .loc],
      let s := onPort fun q => { q with asm := { q.asm with cell := c }, rx := { q.rx with silence := some 0 },
                                        circuit := { q.circuit with loop := loop } }
      s.rstLow = false ∧ (s.port 2).rx.line = .present ∧ (s.port 2).rx.silence = some 0 ∧ expired s.now 0 = true ∧
      (s.port 2).asm.cell = c ∧ s.ctl.station = .run ∧ (s.port 2).circuit.loop = loop) ∧
    (∀ loop ∈ [LoopState.none, .loc],
      let s := onPort fun q => { q with asm := { q.asm with cell := some (.station 0) },
                                        circuit := { q.circuit with loop := loop } }
      (s.port 2).asm.cell = some (.station 0) ∧ expired s.now 0 = true ∧ s.rstLow = false ∧ s.ctl.station = .run ∧
      (s.port 2).circuit.loop = loop) ∧
    (st.port 3).rx.line = .lost := by decide +kernel

theorem test_meets_LossAndStationTiming_settled :
    Settled (onPort fun q => { q with asm := { q.asm with cell := some (.station 0) } }) := settled_of rfl

theorem test_meets_BitsAreGathered :
    let s (n : Nat) (los : Bool) := onPort fun q =>
      { q with rx := { q.rx with gathered := List.replicate n true, los := los } }
    ((s 6 false).port 2).rx.gathered.length < 7 ∧ ((s 7 false).port 2).rx.gathered.length = 7 ∧
    ((s 0 true).port 2).rx.los = true ∧ st.rstLow = false := by decide +kernel

/-- The transmit clock has come to its edge. -/
def edge (f : Port → Port) : State :=
  let s := onPort f
  { s with clock := { s.clock with txPhase := Vector.replicate 8 Config.txBit } }

theorem test_meets_TransmitEdge :
    (∀ n ∈ [0, 6, 7],
      let s := edge fun q => { q with tx := { q.tx with store := [0xA5, 0x5A], sentBits := n } }
      Config.txBit ≤ s.clock.txPhase[(2 : Fin 8)] ∧ (s.port 2).enabled = true ∧ (s.port 2).circuit.loop ≠ .line ∧
      (s.port 2).tx.store = 0xA5 :: [0x5A] ∧ (s.port 2).tx.sentBits = n) ∧
    (let s := edge fun q => { q with circuit := { q.circuit with loop := .line } }
     s.txRate 2 = 0 ∧ (s.port 2).enabled = true ∧ (s.port 2).circuit.loop = .line) ∧
    ((edge id).port 2).tx.store = [] ∧ ((edge id).port 3).enabled = false ∧
    Config.txBit ≤ (edge id).clock.txPhase[(3 : Fin 8)] := by decide +kernel

/-- A timer just ahead and half the span ahead at the last quantum of a tick; a queue with nothing waiting. -/
theorem test_meets_TransmitEdge_time :
    (let s : State := { st with markTimer := some 1, clock := { st.clock with subTick := 24 } }
     s.rstLow = false ∧ s.clock.subTick < 25 ∧ expired s.now 1 = false ∧ expired s.now 2147483648 = false ∧
     s.markTimer = some 1) ∧
    st.closed = true ∧ (st.port 2).enabled = true ∧ (st.port 2).circuit.loop ≠ .line ∧
    0 ≤ 1000000000 + (st.port 2).clk.applied ∧ st.pending = [] ∧ State.reset.pending = [] ∧
    State.reset.rstLow = true := by decide +kernel

/-- A command whose time has come, and a state in which none's has. -/
theorem test_meets_TransmitEdge_due : FallsDue markDue .markPeriodExpiry ∧ ∀ c, ¬FallsDue st c := by
  refine ⟨.inl ⟨0, rfl, by decide⟩, fun c h => ?_⟩
  have : c ∈ st.dueEvents := (mem_dueEvents st c).2 h
  rw [show st.dueEvents = [] by decide +kernel] at this
  cases this

theorem test_meets_IntervalActsPerPort :
    let s : State := { st with clock := { st.clock with interval := 10000 } }
    s.rstLow = false ∧ 10000 ≤ s.clock.interval ∧ (s.port 2).enabled = true ∧ (s.port 3).enabled = false := by
  decide +kernel

/-- A flush count that does not reach its setting, and one that does; an idle run below the starvation limit, at it,
and begun again by a stored cell, with one cell of a target of two held. -/
theorem test_meets_IntervalByState_waiting :
    (∀ n ∈ [0, 1],
      let s := { onPort (fun q => { q with
          engine := Engine.reset, circuit := { q.circuit with state := .flush, flushCount := n } }) with
        image := { image with circuits := image.circuits.set 2 (circuitRec.set 4 2) } }
      (s.port 2).circuit.state = .flush ∧ (s.port 2).engine.position = none ∧ recFlush (s.setting 2) = 2 ∧
      (s.port 2).circuit.flushCount = n) ∧
    (∀ x ∈ [(1, false), (2, false), (2, true)],
      let s := onPort fun q => { q with
        engine := { q.engine with idleRun := x.1, stored := x.2 }, circuit := { q.circuit with state := .prefill } }
      (s.port 2).circuit.state = .prefill ∧
      (s.port 2).engine.measure (recN (s.setting 2)) < recTargetFill (s.setting 2) ∧
      recStarvation (s.setting 2) = 3) := by decide +kernel

theorem test_meets_IntervalByState :
    (let s := onPort fun q => { q with engine := Engine.reset, circuit := { q.circuit with state := .wait } }
     (s.port 2).circuit.state = .wait ∧ (s.port 2).engine.position = none) ∧
    (let s := onPort fun q =>
      { q with circuit := { q.circuit with state := .prefill }
               engine := { q.engine with
                 buffer := q.engine.buffer.set 5 (some ⟨501, List.replicate 8 0, false, some .A⟩) } }
     (s.port 2).circuit.state = .prefill ∧ (s.port 2).engine.position = some ⟨500, 0⟩ ∧
     ((s.port 2).engine.cellOf 500).isSome = true ∧ 1 ≤ (s.port 2).clk.next ∧ 1 ≤ recStarvation (s.setting 2) ∧
     recTargetFill (s.setting 2) = 16 ∧ (s.port 2).engine.measure (recN (s.setting 2)) = 16) ∧
    (st.port 2).circuit.state = .play ∧ 1 < recStarvation (st.setting 2) ∧
    (let s := onPort fun q => { q with engine := ⟨Vector.replicate 16 none, some ⟨500, 0⟩, 0, 2, 0, false⟩ }
     (s.port 2).circuit.state = .play ∧ recStarvation (s.setting 2) ≤ (s.port 2).engine.starvedRun + 1) := by
  decide +kernel

/-- A cell held and not held, at the first and the last octet; a buffer with its farthest cell 15 ahead. -/
theorem test_meets_TakeAndFill :
    (∀ pos ∈ [(⟨500, 0⟩ : Position), ⟨500, 7⟩, ⟨501, 0⟩],
      let e : Engine := { port2.engine with position := some pos }
      e.position = some pos ∧ pos.offset < recN circuitRec ∧ (e.cellOf pos.count).isSome = (pos.count == 500)) ∧
    (let e : Engine := { port2.engine with position := some ⟨485, 0⟩ }
     (∀ i : Fin 16, ∀ x ∈ e.buffer[i], (x.count - (485 : BitVec 16)).toNat ≤ 15) ∧
     e.buffer[(4 : Fin 16)].isSome = true ∧
     e.measure 8 = 128) ∧
    Engine.reset.position = none := by decide +kernel

/-- A position inside a cell, and the first and last distances of every row of R67's table. -/
theorem test_meets_CellSorted :
    let d (c : BitVec 16) := (c - (500 : BitVec 16)).toNat
    (∀ x ∈ [CircuitState.prefill, .play], ((inCircuit fun c => { c with state := x }).port 2).circuit.state = x) ∧
    (st.port 2).engine.position = some ⟨500, 0⟩ ∧ (st.port 2).engine.buffer[slotOf 500].isSome = true ∧
    (st.port 2).engine.buffer[slotOf 515] = none ∧
    d 500 = 0 ∧ d 515 = 15 ∧ d 516 = 16 ∧ d 33267 = 32767 ∧ d 33268 = 32768 ∧ d 499 = 65535 := by decide +kernel

theorem test_meets_CellAccepted :
    (∀ x ∈ [CircuitState.wait, .flush], ((inCircuit fun c => { c with state := x }).port 2).circuit.state = x) ∧
    (let s := onPort fun q => { q with engine := Engine.reset, circuit := { q.circuit with state := .prefill } }
     (s.port 2).circuit.state = .prefill ∧ (s.port 2).engine.position = none) := by decide +kernel

/-! ### Witnesses: chapters 5 to 7 -/

theorem test_meets_CircuitLimits :
    (let s := onPort fun q => { q with engine := { q.engine with starvedRun := 3 } }
     (s.port 2).circuit.state = .play ∧ recStarvation (s.setting 2) ≤ (s.port 2).engine.starvedRun) ∧
    (let s := onPort fun q => { q with
        engine := { q.engine with idleRun := 3 }, circuit := { q.circuit with state := .prefill } }
     (s.port 2).circuit.state = .prefill ∧ recStarvation (s.setting 2) ≤ (s.port 2).engine.idleRun) ∧
    (let s := inCircuit fun c => { c with state := .flush, flushCount := 1 }
     (s.port 2).circuit.state = .flush ∧ recFlush (s.setting 2) ≤ (s.port 2).circuit.flushCount) ∧
    st.rstLow = false := by decide +kernel

theorem test_meets_LaneSwitches :
    (let s := inCircuit fun c => { c with tally := ⟨false, false, 2, true⟩ }
     s.rstLow = false ∧ s.ctl.station = .run ∧ (s.port 2).circuit.current = some .A ∧
     recSwitchLimit (s.setting 2) ≤ (s.port 2).circuit.tally.run ∧ (s.port 2).circuit.tally.otherSeen = true) ∧
    (let s := inCircuit fun c => { c with current := some .B, revert := some 0 }
     (s.port 2).circuit.revert = some 0 ∧ expired s.now 0 = true ∧
     (recMode (s.setting 2)).configured = some .A ∧ (s.port 2).circuit.current = some (Lane.other .A)) := by
  decide +kernel

/-- A run below the limit (only a limit of more than one leaves room) and one that reaches it; a far peer present on
both lanes, and on the other lane alone. -/
theorem test_meets_TallyAndPresence :
    st.ctl.station = .run ∧ (st.port 2).circuit.current = some .A ∧ recSwitchLimit (st.setting 2) = 2 ∧
    (∀ x ∈ [(⟨true, false, 1, true⟩ : Tally), ⟨false, true, 0, false⟩, ⟨false, false, 1, false⟩,
        ⟨false, true, 1, false⟩],
      ((inCircuit fun c => { c with tally := x }).port 2).circuit.tally = x) ∧
    st.farPresent 2 .A = true ∧ (st.port 3).circuit.current = none ∧
    (let s := { st with peers := [{ peer with lanes := ⟨PeerLane.reset, peerLane⟩ }] }
     s.farPresent 2 .A = false ∧ s.farPresent 2 .B = true) := by decide +kernel

/-- Reports of the configured lane to a circuit that stands off it, with waits of 10 s and of none; a peer record whose
presence is about to change, with port 2 in its circuit role and port 3 outside it. -/
theorem test_meets_TallyAndPresence_reports :
    (let s := inCircuit fun c => { c with current := some .B }
     s.ctl.station = .run ∧ (recMode (s.setting 2)).configured = some .A ∧
     (s.port 2).circuit.current = some (Lane.other .A) ∧ recRevertWait (s.setting 2) = 10 ∧
     s.farPresent 2 .B = true) ∧
    recRevertWait (circuitRec.set 7 0) = 0 ∧
    (stIn .quiet (some 9)).ctl.station = .quiet ∧ (stIn .clash none).ctl.station = .clash ∧
    st.peers[0]? = some peer ∧ (peer.lanes.get .A).present = true ∧
    (withLane PeerLane.reset).peers[0]? = some { peer with lanes := PerLane.both PeerLane.reset } ∧
    peer.circuits.getLsbD 2 = true ∧ peer.circuits.getLsbD 3 = false := by decide +kernel

/-- Indices of ports with and without a circuit, and the first and the last beyond them. -/
theorem test_meets_LoopQueries :
    (∀ i ∈ [(8 : Byte), 255], let q : QueryHead := { head with index := i }
      8 ≤ q.index.toNat ∧ st.ctl.number = some q.dst.toNat) ∧
    st.rstLow = false ∧ st.ctl.station = .run ∧ st.ctl.number = some head.dst.toNat ∧
    head.index.toNat = (2 : Fin 8).val ∧ (st.port 2).enabled = true ∧ (st.port 2).circuit.loop ≠ .line ∧
    (st.port 2).circuit.loop = .none ∧ (st.port 3).enabled = false := by decide +kernel

theorem test_meets_FarEndCells :
    (let b := frameBody tribFrame
     tribDestPort b = 2 ∧ (st.port 2).enabled = true ∧ recFarStation (st.setting 2) = 9 ∧
     tribSourcePort b = recFarPort (st.setting 2) ∧ tribClass b = some (recClass (st.setting 2))) ∧
    (let b := tribBody 2 3 .W false none 501 []
     tribDestPort b = 2 ∧ tribSourcePort b = recFarPort (st.setting 2) ∧
     tribClass b ≠ some (recClass (st.setting 2))) ∧
    ((inCircuit fun c => { c with loop := .loc }).port 2).circuit.loop = .loc ∧
    (st.port 2).circuit.loop ≠ .loc := by decide +kernel

theorem test_meets_SteeringComputation : ClockLoopOk ⟨99990, 0, 0, 999999999, 8⟩ := by
  unfold ClockLoopOk; decide

/-- Both lanes sending with eleven frames waiting, and one peer. -/
def echoDue : State :=
  let l : Forwarder := ⟨[], List.replicate 11 ordinary, .sending ordinary, LaneCounters.zero⟩
  { st with echoTimer := some 0, lanes := PerLane.both l }

theorem test_meets_EchoesSentAndAnswered :
    (echoDue.rstLow = false ∧ echoDue.ctl.station = .run ∧ echoDue.echoTimer = some 0 ∧
      expired echoDue.now 0 = true ∧
      ∀ L : Lane, (echoDue.forwarder L).egress ≠ .idle ∧
        (echoDue.forwarder L).localQ.length + echoDue.peers.length ≤ 12) ∧
    (st.ctl.station = .run ∧ Settled st ∧ st.ctl.number = some 5 ∧ st.ctl.number ≠ some 63 ∧
      ({ st with echoTimer := some 0 } : State).echoTimer = some 0 ∧ expired st.now 0 = true) := by
  refine ⟨⟨rfl, rfl, rfl, by decide, ?_⟩, rfl, settled_st, rfl, by decide, rfl, by decide⟩
  intro L; cases L <;> exact ⟨by decide, by decide⟩

/-- A reply at the limits of a valid round trip and outside them. -/
theorem test_meets_EchoesMatchedOrMissed :
    (let s := withLane { peerLane with missed := 3 }
     s.rstLow = false ∧ s.ctl.station = .run ∧
     ((s.peers[(0 : Fin 12).val]?).map fun r => (r.lanes.get .A).missed) = some 3) ∧
    (let s (now : Time) :=
      { withLane { peerLane with outstanding := some 7 } with clock := { st.clock with time := now } }
     let body := be32 7 ++ be32 100 ++ be32 101
     let rtt (now : Time) : Int := (((s now).now - rd32 body 0).toNat : Int) - ((rd32 body 8 - rd32 body 4).toNat : Int)
     ((s 8).peers[0]?).map (fun r => (r.station, (r.lanes.get .A).outstanding)) = some (9, some (rd32 body 0)) ∧
     rtt 7 = -1 ∧ rtt 8 = 0 ∧ rtt 500008 = 500000 ∧ rtt 500009 = 500001) ∧
    (peer.lanes.get .A).outstanding ≠ some (rd32 (be32 7) 0) ∧ (∀ r ∈ st.peers, r.station ≠ 8) := by decide +kernel

theorem test_meets_DelayFigureAndBudget :
    (st.port 2).enabled = true ∧ st.peers.find? (fun x => x.station == recFarStation (st.setting 2)) = some peer ∧
    recMode (st.setting 2) ≠ .first ∧ (st.port 2).circuit.current = some .A ∧
    ({ st with peers := [] } : State).peers.find? (fun x => x.station == 9) = none ∧
    recMode (circuitRec.set 0 0x88) = .first := by decide +kernel

/-! ### Witnesses: chapter 8 -/

theorem test_meets_PinQualified :
    (∀ s ∈ [st, st.modCmd 0 fun c => { c with qualified := true },
        { st with image := { image with commands := image.commands.set 0 (commandRec.set 2 0) } }],
      s.rstLow = false ∧ (s.cmd 0).ci ≠ true ∧ (s.cmd 0).outgoing ≠ none) ∧
    (st.cmd 1).outgoing = none ∧ (st.cmd 0).qualified = false ∧ cmdQualification (st.cmdSetting 0) ≠ 0 := by
  decide +kernel

/-- A pin that has risen, and one that has fallen while the command is on. -/
def qualifying (ci : Bool) (o : Outgoing) (x : StationState) : State :=
  (stIn x none).modCmd 0 fun c => { c with ci := ci, qualTimer := some 0, outgoing := some o }

theorem test_meets_QualifiedChangeTaken :
    (∀ x ∈ [StationState.run, .clash], ∀ ci ∈ [true, false],
      ∀ o ∈ [outgoing, ⟨.on, 5, .awaiting, none, 0, some 9, some 9⟩],
      let s := qualifying ci o x
      s.rstLow = false ∧ (s.cmd 0).qualTimer = some 0 ∧ expired s.now 0 = true ∧ (s.cmd 0).outgoing = some o ∧
      (s.cmd 0).ci = ci ∧ s.ctl.station = x) := by decide +kernel

theorem test_meets_QualifiedChangeTaken_settled : Settled (qualifying true outgoing .run) := settled_of rfl

theorem test_meets_OutgoingTimersExpire :
    ∀ o ∈ [(⟨.on, 5, .awaiting, none, 0, some 0, some 0⟩ : Outgoing), ⟨.releasing, 5, .none, none, 2, some 0, none⟩,
        ⟨.releasing, 5, .none, none, 1, some 0, none⟩],
      let s := withOutgoing o
      s.rstLow = false ∧ s.ctl.station = .run ∧ (s.cmd 0).outgoing = some o ∧ o.repeatTimer = some 0 ∧
      expired s.now 0 = true := by decide +kernel

theorem test_meets_OutgoingTimersExpire_settled (o : Outgoing) : Settled (withOutgoing o) := settled_of rfl

theorem test_meets_AnswerJudged :
    let body : Octets := [1, 5, 1]
    oct body 0 = BitVec.ofNat 8 ((0 : Fin 4).val + 1) ∧ oct body 1 = outgoing.activation ∧
    cmdFarStation (st.cmdSetting 0) = 9 ∧ (st.cmd 1).outgoing = none ∧
    ∀ a ∈ [AnswerState.none, .awaiting, .unanswered, .answered],
      ((withOutgoing { outgoing with answer := a }).cmd 0).outgoing = some { outgoing with answer := a } := by
  decide +kernel

/-- A sequence just newer and one at the last newer distance, and the two around them. -/
theorem test_meets_CommandReceived :
    let body : Octets := [1, 1, 7]
    let newer (seq l : BitVec 16) : Bool := decide (1 ≤ (seq - l).toNat ∧ (seq - l).toNat ≤ 32767)
    oct body 0 = BitVec.ofNat 8 ((0 : Fin 4).val + 1) ∧ (oct body 1).getLsbD 0 = true ∧
    cmdFarStation (st.cmdSetting 0) = 9 ∧ (st.cmd 1).incoming = none ∧ (st.cmd 0).tk = false ∧ st.block = false ∧
    ({ st with block := true } : State).block = true ∧ st.ctl.station = .run ∧
    newer 11 10 = true ∧ newer 32777 10 = true ∧ newer 10 10 = false ∧ newer 32778 10 = false ∧
    ∀ r ∈ [incoming, { incoming with state := .active, lastSeq := some 10, activation := some 7 },
        { incoming with state := .refused, activation := some 7 },
        { incoming with state := .active, activation := some 6 },
        { incoming with state := .holding, activation := some 7, hold := some 5 }],
      ((withIncoming r).cmd 0).incoming = some r := by decide +kernel

/-- An OFF that finds the record ACTIVE with the minimum hold of 50 ms just passed and just not, REFUSED, IDLE and
HOLDING; an ON with another activation at a REFUSED record whose cycle is answered and open; TKk high; numbers that name
no command. -/
theorem test_meets_CommandReceived_others :
    ((0xFE : Byte).getLsbD 0 = false ∧ (0xFF : Byte).getLsbD 0 = true) ∧
    (let r : Incoming := { incoming with state := .active, activation := some 7, assertTime := some 1 }
     let s (now : Time) := { withIncoming r with clock := { st.clock with time := now } }
     ((s 500001).cmd 0).incoming = some r ∧
     cmdMinimumHold ((s 500001).cmdSetting 0) * 10000 ≤ ((s 500001).now - (1 : Time)).toNat ∧
     ((s 500000).now - (1 : Time)).toNat < cmdMinimumHold ((s 500000).cmdSetting 0) * 10000) ∧
    (∀ answered ∈ [true, false],
      let r : Incoming :=
        { incoming with state := .refused, activation := some 6, cycle := some ⟨6, false, answered, none⟩ }
      ((withIncoming r).cmd 0).incoming = some r ∧ r.activation ≠ some 7) ∧
    ((st.modCmd 0 fun c => { c with tk := true }).cmd 0).tk = true ∧
    (∀ n ∈ [(0 : Byte), 5, 255], ∀ k : Fin 4, oct [n] 0 ≠ BitVec.ofNat 8 (k.val + 1)) := by decide +kernel

theorem test_meets_CommandReceived_settled : Settled { st with block := true } := settled_of rfl

/-- The minimum hold of 50 ms just not passed, and just passed. -/
theorem test_meets_IncomingTimersExpire_persistence :
    (let r : Incoming := { incoming with state := .active, assertTime := some 0, persistence := some 500000 }
     let s := { withIncoming r with clock := { st.clock with time := 500000 } }
     s.rstLow = false ∧ (s.cmd 0).incoming = some r ∧ expired s.now 500000 = true ∧
     cmdMinimumHold (s.cmdSetting 0) * 10000 ≤ (s.now - (0 : Time)).toNat) ∧
    (let r : Incoming := { incoming with state := .active, assertTime := some 1, persistence := some 500000 }
     let s := { withIncoming r with clock := { st.clock with time := 500000 } }
     (s.cmd 0).incoming = some r ∧ (s.now - (1 : Time)).toNat < cmdMinimumHold (s.cmdSetting 0) * 10000) := by
  decide +kernel

theorem test_meets_IncomingTimersExpire_others :
    ∀ r ∈ [{ incoming with state := .refused, persistence := some 0 },
        { incoming with state := .holding, hold := some 0 },
        { incoming with lastSeq := some 4, seqTimer := some 0 }],
      ((withIncoming r).cmd 0).incoming = some r ∧ expired (withIncoming r).now 0 = true := by decide +kernel

def inCycle (answered : Bool) : Incoming :=
  { incoming with state := .active, activation := some 7, cycle := some ⟨7, false, answered, some 0⟩ }

theorem test_meets_AnswerCycleEnds :
    let s := withIncoming (inCycle false)
    s.rstLow = false ∧ s.ctl.station = .run ∧ (s.cmd 0).incoming = some (inCycle false) ∧
    (inCycle false).cycle = some ⟨7, false, false, some 0⟩ ∧ expired s.now 0 = true ∧
    ((withIncoming (inCycle true)).cmd 0).incoming = some (inCycle true) ∧ (st.cmd 1).incoming = none ∧
    (let r := { inCycle false with cycle := some ⟨7, true, false, some 1⟩ }
     ((withIncoming r).cmd 0).incoming = some r ∧ expired (withIncoming r).now 1 = false) := by
  decide +kernel

theorem test_meets_AnswerCycleEnds_settled : Settled (withIncoming (inCycle false)) := settled_of rfl

/-! ### Witnesses: chapters 9 and 10 -/

/-- The first and last index of each range, and the first beyond it. -/
theorem test_meets_ReadQueriesAnswered :
    st.rstLow = false ∧ st.ctl.station = .run ∧ st.ctl.number = some head.dst.toNat ∧
    (0 : Byte).toNat = (0 : Fin 8).val ∧ (7 : Byte).toNat = (7 : Fin 8).val ∧ 8 ≤ (8 : Byte).toNat ∧
    st.peers[(0 : Byte).toNat]? = some peer ∧ st.peers.length ≤ (1 : Byte).toNat ∧
    (1 : Byte).toNat = (0 : Fin 4).val + 1 ∧ (4 : Byte).toNat = (3 : Fin 4).val + 1 ∧ 4 < (5 : Byte).toNat ∧
    (∀ code ∈ [(0 : Byte), 11, 255], code.toNat < 1 ∨ 10 < code.toNat) := by decide +kernel

/-- Records with every field there, and with its optional fields absent. -/
theorem test_meets_ReadQueriesAnswered_records :
    (st.port 2).enabled = true ∧ (st.port 3).enabled = false ∧
    (peer.lanes.get .A).samples.length ≤ 8 ∧ (List.replicate 8 41180).length ≤ 8 ∧
    (st.cmd 0).outgoing = some outgoing ∧ (st.cmd 0).incoming = some incoming ∧ outgoing.conditions = none ∧
    (st.cmd 1).outgoing = none ∧ (st.cmd 1).incoming = none ∧ incoming.cycle = none ∧
    ({ outgoing with conditions := some ⟨true, false, false⟩ } : Outgoing).conditions = some ⟨true, false, false⟩ ∧
    ({ incoming with cycle := some ⟨7, false, true, none⟩ } : Incoming).cycle = some ⟨7, false, true, none⟩ := by
  decide +kernel

/-- A queue with 31 entries takes one more; with 32 it is full. -/
def held (n : Nat) : State :=
  { st with changes := ⟨List.replicate n ⟨0, .laneOpen .A⟩, false, true⟩ }

theorem test_meets_ChangeQueueRule :
    (held 31).changes.entries.length < 32 ∧ 32 ≤ (held 32).changes.entries.length ∧
    st.ctl.number = some head.dst.toNat ∧
    (held 8).changes.entries[0]? = some ⟨0, .laneOpen .A⟩ ∧ (held 8).changes.entries[7]? = some ⟨0, .laneOpen .A⟩ := by
  decide +kernel

theorem test_meets_ChangeQueueRule_settled : Settled (held 32) := settled_of rfl

theorem test_meets_CountersRule :
    st.rstLow = false ∧ st.ctl.station = .run ∧ Settled st ∧ st.ctl.number = some head.dst.toNat :=
  ⟨rfl, rfl, settled_st, rfl⟩

theorem test_meets_RestartTaken :
    st.rstLow = false ∧ st.ctl.station = .run ∧ st.ctl.number = some head.dst.toNat ∧ (st.port 2).enabled = true ∧
    (st.port 3).enabled = false := by decide +kernel

theorem test_meets_EntryToRun :
    quietEnds.rstLow = false ∧ quietEnds.ctl.station = .quiet ∧ quietEnds.ctl.quiet = some 0 ∧
    expired quietEnds.now 0 = true ∧ (quietEnds.port 2).enabled = true ∧ (quietEnds.port 3).enabled = false ∧
    (quietEnds.cmd 0).outgoing = some outgoing ∧ (quietEnds.cmd 0).qualified = false ∧
    ((quietEnds.modCmd 0 fun c => { c with qualified := true }).cmd 0).qualified = true := by decide +kernel

/-- At the entry to RUN, a far peer present on the configured lane, and one present on the other lane alone; the commands
of `runTask`. -/
theorem test_meets_EntryToRun_lanes :
    (recMode (quietEnds.setting 2)).configured = some .A ∧ quietEnds.farPresent 2 .A = true ∧
    (let s := { quietEnds with peers := [{ peer with lanes := ⟨PeerLane.reset, peerLane⟩ }] }
     s.farPresent 2 .A = false ∧ s.farPresent 2 (Lane.other .A) = true) ∧
    (st.port 2).enabled = true ∧ (st.cmd 0).outgoing = some outgoing := by decide +kernel

theorem test_meets_BusTransactions :
    let s := writing fun c => { c with phase := .address }
    s.rstLow = false ∧ s.cfg.phase = .address ∧ (0x54 : Byte).toNat = 2 * 0x2A ∧ (0x55 : Byte).toNat = 2 * 0x2A + 1 ∧
    (0x56 : Byte).toNat / 2 ≠ 0x2A ∧ (0x57 : Byte).toNat = 2 * 0x2B + 1 := by decide +kernel

theorem test_meets_BusTransactions_reading :
    ∀ x ∈ [BusPhase.reading 0, .reading 1, .reading 2, .reading 3, .ignoring],
      (writing fun c => { c with phase := x }).cfg.phase = x ∧
      (writing fun c => { c with phase := x }).rstLow = false := by decide +kernel

/-- Every kind of record at its last index, and the bytes just beyond; the last octet of a record. -/
theorem test_meets_WriteBytes :
    (∀ c ∈ [none, some (⟨.circuit 2, 12⟩ : LoadPointer), some ⟨.station, 5⟩, some ⟨.command 0, 5⟩, some ⟨.steer, 31⟩],
      let s := writing fun x => { x with pointer := c }
      s.rstLow = false ∧ s.cfg.phase = .writing ∧ s.cfg.refusing = false ∧ s.closed = false ∧ s.cfg.pointer = c) ∧
    (writing fun x => { x with refusing := true }).cfg.refusing = true ∧
    (∀ b ∈ [(0x00 : Byte), 0x27, 0x43, 0x60], b.toNat / 8 % 4 = 0 ∧ b ≠ 0xE0 ∧ (recordOf b).isSome = true) ∧
    (∀ b ∈ [(0x01 : Byte), 0x28, 0x44, 0x61, 0x80, 0xE1], recordOf b = none) := by decide +kernel

def closing (im : Image) : State := { writing id with image := im }

/-- A far station of 0, of 63 and of this station's own number; a clamped far port shared; an instance value of 0. -/
theorem test_meets_CloseFails :
    let circuits (p q : CircuitRecord) : Image := { image with circuits := (image.circuits.set 2 p).set 4 q }
    (∀ far ∈ [(0 : Byte), 63, 5, 255],
      let s := closing (circuits (circuitRec.set 1 far) (circuitRec.set 0 0))
      s.rstLow = false ∧ s.cfg.phase = .writing ∧ s.closed = false ∧ s.cfg.pointer = none ∧
      s.ctl.station ≠ .noAddress ∧ closeFault s.ctl s.image = 2) ∧
    (let s := closing (circuits (circuitRec.set 2 7) (circuitRec.set 2 8))
     min 7 (recFarPort s.image.circuits[2]) = min 7 (recFarPort s.image.circuits[4]) ∧
     closeFault s.ctl s.image = 3) ∧
    (let s := closing { image with station := Image.stationDefault }
     s.image.instanceValue = 0 ∧ closeFault s.ctl s.image = 4) ∧
    (let s := { writing id with ctl := ⟨.noAddress, none, none, 0⟩ }
     s.ctl.station = .noAddress ∧ s.closed = false) := by decide +kernel

theorem test_meets_CloseSucceeds :
    let s := writing id
    s.rstLow = false ∧ s.cfg.phase = .writing ∧ s.cfg.refusing = false ∧ s.ctl.station = .load ∧
    s.cfg.pointer = none ∧ recEnabled s.image.circuits[2] = true ∧ cmdDirection s.image.commands[0] = .both ∧
    (let bad (far : Nat) : Prop := far = 0 ∨ 63 ≤ far ∨ s.ctl.number = some far
     (∀ p : Fin 8, recEnabled s.image.circuits[p] = true → ¬bad (recFarStation s.image.circuits[p])) ∧
     (∀ k : Fin 4, cmdDirection s.image.commands[k] ≠ .disabled → ¬bad (cmdFarStation s.image.commands[k]))) ∧
    (∀ p q : Fin 8, recEnabled s.image.circuits[p] = true → recEnabled s.image.circuits[q] = true → p = q) ∧
    s.image.instanceValue ≠ 0 := by decide +kernel

/-- A CIk that is high at the CLOSE, with a qualification time and without one. -/
theorem test_meets_CloseSucceeds_pins :
    ∀ q ∈ [(2 : Byte), 0],
      let s := { (writing id).modCmd 0 (fun c => { c with ci := true }) with
        image := { image with commands := image.commands.set 0 (commandRec.set 2 q) } }
      (s.cmd 0).ci = true ∧ cmdDirection s.image.commands[0] = .both ∧
      cmdQualification s.image.commands[0] = q.toNat ∧ s.cfg.phase = .writing ∧ s.ctl.station = .load := by
  decide +kernel

/-! ### Frames (chapter 11) -/

/-- The published check value of this computation for the nine octets "123456789". -/
theorem test_check_sequence :
    checkSequence [0x31, 0x32, 0x33, 0x34, 0x35, 0x36, 0x37, 0x38, 0x39] = 0xFC891918 := by decide +kernel

/-- The CMD of section 11.6: 60 octets with its check. -/
theorem test_cmd_frame :
    let f := buildFrame .cmd 3 7 4100 ([2, 1, 6] ++ zeros 44)
    f.take 13 = [5, 1, 3, 7, 63, 0x10, 0x04, 0x00, 0x2F, 2, 1, 6, 0] ∧ (withCheck f).length = 60 ∧
    frameHop (forwardedCopy (withCheck f)) = 62 := by decide +kernel

/-! ### Chapter 1 -/

/-- The full local queue of section 1.4: the CMDACK displaces the ECHO, and the next TRIB is dropped. -/
theorem test_full_local_queue :
    let q : List Octets := [[1, 0], [1, 1], [2], [1, 2], [1, 3], [5], [1, 4], [1, 5], [8], [1, 6], [1, 7], [3]]
    let s := withForwarder ⟨[[1, 8], [1, 9]], q, .sending [1], LaneCounters.zero⟩
    let s1 := offer [6] .A s
    (s1.forwarder .A).localQ = q.take 11 ++ [[6]] ∧ (s1.forwarder .A).counts.localDrops = 1 ∧
    ((offer [1, 10] .A s1).forwarder .A).localQ = q.take 11 ++ [[6]] ∧
    ((offer [1, 10] .A s1).forwarder .A).counts.localDrops = 2 := by decide +kernel

/-- The grants at 1,000,022 and 1,000,027 of section 1.5: the urgent CMD, then the transit frame. -/
theorem test_grant_order :
    let s := withForwarder ⟨[ordinary], [ordinary, urgent], .sending ordinary, LaneCounters.zero⟩
    let s1 := after (.transmissionCompletion .A) s
    (s1.forwarder .A).localQ = [ordinary] ∧ s1.clock.sendLeft.get .A = 60 * 2 ∧
    ((after (.transmissionCompletion .A) s1).forwarder .A).egress = .sending ordinary := by decide +kernel

theorem test_frame_without_header_fails_its_check :
    ((after (.frameArrival .B [1, 2, 3]) st).forwarder .B).counts =
      { LaneCounters.zero with framesReceived := 1, checkFailures := 1 } := by decide +kernel

/-- R7: the last hop is used up at the forwarding, and none is left at the next station. -/
theorem test_hop_count :
    let f (hop : Byte) := withCheck ((buildFrame .cmd 9 7 3 (zeros 47)).set 4 hop)
    ((after (.frameArrival .A (f 1)) st).forwarder .A).counts.framesForwarded = 1 ∧
    ((after (.frameArrival .A (f 0)) st).forwarder .A).counts.hopExpired = 1 := by decide +kernel

/-! ### Chapter 2 -/

/-- The worked example of section 2.2, and its two closing sentences. -/
theorem test_window_example :
    judgeSequence (some window12) 65528 = .duplicate ∧
    judgeSequence (some window12) 65529 = .accepted 65530 0b111 ∧
    judgeSequence (some ⟨65530, 0b111, 0⟩) 3 = .accepted 3 0b111000000001 ∧
    judgeSequence (some ⟨3, 0b111000000001, 0⟩) 40000 = .stale ∧
    (∃ w, judgeSequence (some ⟨3, 0b111000000001, 0⟩) 65531 = .accepted 3 w) ∧
    judgeSequence (some ⟨3, 0b111000000001, 0⟩) 65470 = .stale :=
  ⟨by decide +kernel, by decide +kernel, by decide +kernel, by decide +kernel, ⟨_, rfl⟩, by decide +kernel⟩

/-- R32: hop count 63 − n with n = 5 forwarding stations gives a ring of 6. -/
theorem test_own_mark_sets_ring_size :
    (after (.frameArrival .A (ownMark 7)) st).mark .A = ⟨.closed, some 6, some 300000⟩ := by decide +kernel

theorem test_foreign_mark_clashes :
    let t := after (.frameArrival .A (ownMark 8)) st
    t.ctl.station = .clash ∧ (t.port 2).circuit.state = .wait ∧
    t.changes.entries.map (·.what) = [.clash .A 8, .circuitState 2 .wait] := by decide +kernel

theorem test_mark_period :
    let t := after .markPeriodExpiry { st with markTimer := some 100000 }
    t.now = 100000 ∧ t.markTimer = some 200000 ∧ t.ctl.sequence = 1 ∧
    (t.forwarder .B).egress = .sending (withCheck (buildFrame .mark 5 63 0 ([0, 0, 0, 7, 3] ++ zeros 42))) := by
  decide +kernel

theorem test_return_timer :
    let t := after (.returnTimerExpiry .B) (st.modMark .B fun _ => ⟨.closed, some 6, some 300000⟩)
    t.now = 300000 ∧ t.mark .B = ⟨.opened, none, none⟩ ∧ t.changes.entries = [⟨300000, .laneOpen .B⟩] ∧
    t.changes.attn = true := by decide +kernel

/-- R29: an entry ages out; the table keeps its other entries. -/
theorem test_duplicate_entry_expires :
    let t := after (.duplicateEntryExpiry 9) ((withWindow st).setDup 12 (some window12))
    t.dupEntry 9 = none ∧ t.dupEntry 12 = some window12 ∧ t.now = 2000000 := by decide +kernel

/-- R39, R92: the far peer lost on the current lane switches a pinned circuit to the other lane. -/
theorem test_presence_lost_switches :
    let t := after (.presenceTimerExpiry 0 .A) st
    (t.port 2).circuit.current = some .B ∧ (t.port 2).counts.laneSwitches = 1 ∧
    t.changes.entries.map (·.what) = [.laneSwitch 2 .B, .budget 2 true] := by decide +kernel

/-! ### Chapter 3: the worked example of section 3.3, on port 2 -/

def losing : State :=
  { onPort fun q => { q with asm := ⟨true, some (.line [1, 2, 3]), 21⟩ } with
    clock := { st.clock with time := 5014200 } }

theorem test_loss_inside_a_cell :
    let t := after (.losAsserted 2) losing
    (t.port 2).asm = ⟨true, some (.station 5024200), 22⟩ ∧ (t.port 2).rx.line = .lost ∧
    (t.port 2).counts = { CircuitCounters.zero with cellsAssembled := 1, srcLostCells := 1, lineLosses := 1 } ∧
    (t.forwarder .A).egress = .sending (withCheck (buildFrame .trib 5 9 0
      ([3, 2, 2, 0x81, 0, 21, 1, 2, 3, 0xFF, 0xFF, 0xFF, 0xFF, 0xFF] ++ zeros 33))) := by decide +kernel

theorem test_station_cell_completes :
    let s := onPort fun q => { q with rx := { q.rx with line := .lost }, asm := ⟨true, some (.station 5034200), 23⟩ }
    let t := after (.stationCellCompletion 2) { s with clock := { s.clock with time := 5024200 } }
    t.now = 5034200 ∧ (t.port 2).asm = ⟨true, some (.station 5044200), 24⟩ := by decide +kernel

theorem test_regain_begins_a_line_cell :
    let s := onPort fun q => { q with rx := { q.rx with line := .lost }, asm := ⟨true, some (.station 5054200), 25⟩ }
    let t := after (.octetReceived 2 0x42) s
    (t.port 2).asm = ⟨true, some (.line [0x42]), 26⟩ ∧ (t.port 2).rx.line = .present := by decide +kernel

theorem test_eighth_bit_makes_an_octet :
    let s := onPort fun q => { q with rx := { q.rx with gathered := [true, false, true, false, false, true, false] } }
    let t := after (.bitSampled 2 true) s
    (t.port 2).asm.cell = some (.line [0xA5]) ∧ (t.port 2).rx.gathered = [] := by decide +kernel

theorem test_los_deasserted_keeps_line_lost :
    ((after (.losDeasserted 3) st).port 3).rx = ⟨[], false, .lost, none⟩ := by decide +kernel

theorem test_silence :
    let t := after (.silenceTimerExpiry 2) st
    t.now = 20000 ∧ (t.port 2).asm.cell = some (.station 30000) ∧ (t.port 2).rx.silence = none := by decide +kernel

/-- The seventh bit of 0xA5 leaves the octet in the store; the eighth takes it out. -/
theorem test_transmit_edge :
    let s (n : Nat) := edge fun q => { q with tx := { q.tx with store := [0xA5, 0x5A], sentBits := n } }
    ((after (.txcFallingEdge 2) (s 6)).port 2).tx = ⟨[0xA5, 0x5A], 7, false, false⟩ ∧
    ((after (.txcFallingEdge 2) (s 7)).port 2).tx = ⟨[0x5A], 0, true, false⟩ := by decide +kernel

/-! ### Chapter 4: the worked example of section 4.7 -/

def cellOf (count : BitVec 16) (lane : Lane) : Option HeldCell :=
  some ⟨count, List.replicate 8 0x55, false, some lane⟩

/-- The circuit of the example: FIRST, target 4, starvation 3, fill 0x7E, gain 8. -/
def exampleRec : CircuitRecord := #v[0x88, 9, 3, 4, 1, 3, 2, 0, 8, 1, 0x7E, 0, 0]

/-- That circuit at an interval time, with these cells held. -/
def playing (x : CircuitState) (cells : List (BitVec 16 × Lane)) (pos : Position) (n : Nat) : State :=
  let buffer := cells.foldl (fun b c => b.set (slotOf c.1) (cellOf c.1 c.2)) (Vector.replicate 16 none)
  let s := onPort fun q =>
    { q with engine := ⟨buffer, some pos, 0, 0, 0, false⟩, clk := ⟨0, 0, 0, 0, n⟩
             circuit := { q.circuit with state := x, current := none } }
  { s with image := { image with circuits := image.circuits.set 2 exampleRec }
           clock := { s.clock with interval := 10000 } }

/-- 7,230,000: F = 40 reaches the target, the circuit enters PLAY and takes cell 500; F is 32 after the take. -/
theorem test_prefill_to_play :
    let t := after .intervalEvent (playing .prefill [(500, .A), (501, .A), (502, .B), (504, .A)] ⟨500, 0⟩ 8)
    (t.port 2).circuit.state = .play ∧ (t.port 2).engine.position = some ⟨501, 0⟩ ∧ (t.port 2).engine.fill = 32 ∧
    (t.port 2).counts.playedA = 1 ∧ (t.port 2).tx.store = List.replicate 8 0x55 := by decide +kernel

/-- 7,250,000: n = 9 crosses into the missing count 503. -/
theorem test_missing_cell :
    let t := after .intervalEvent (playing .play [(502, .B), (504, .A), (505, .A)] ⟨502, 0⟩ 9)
    (t.port 2).engine.position = some ⟨503, 1⟩ ∧ (t.port 2).engine.fill = 23 ∧ (t.port 2).counts.playedB = 1 ∧
    (t.port 2).counts.missing = 1 ∧ (t.port 2).tx.store = List.replicate 8 0x55 ++ [0x7E] ∧
    (t.port 2).engine.starvedRun = 0 := by decide +kernel

/-- 7,251,200 and 7,255,000: cell 503 is late, cell 506 is stored. -/
theorem test_late_and_stored :
    let s := playing .play [(504, .A), (505, .A)] ⟨503, 1⟩ 8
    ((acceptCell 2 ⟨503, [], false, some .B⟩ s).port 2).counts.late = 1 ∧
    ((acceptCell 2 ⟨506, [], false, some .A⟩ s).port 2).engine.buffer[(10 : Fin 16)].isSome = true := by decide +kernel

/-- 7,260,000: seven fill octets, then the first octet of 504. -/
theorem test_fill_then_cell :
    let t := after .intervalEvent (playing .play [(504, .A), (505, .A), (506, .A)] ⟨503, 1⟩ 8)
    (t.port 2).engine.position = some ⟨504, 1⟩ ∧ (t.port 2).engine.fill = 23 ∧
    (t.port 2).tx.store = List.replicate 7 0x7E ++ [0x55] := by decide +kernel

/-! ### Chapter 5 -/

theorem test_starvation :
    let t := after (.starvation 2) (onPort fun q => { q with engine := { q.engine with starvedRun := 3 } })
    (t.port 2).circuit.state = .wait ∧ (t.port 2).counts.starvations = 1 := by decide +kernel

theorem test_starvation_below_its_limit :
    after (.starvation 2) (onPort fun q => { q with engine := { q.engine with starvedRun := 2 } }) =
      onPort fun q => { q with engine := { q.engine with starvedRun := 2 } } := by decide +kernel

theorem test_idle_run_limit :
    ((after (.idleRunLimit 2) (onPort fun q => { q with
      engine := { q.engine with idleRun := 3 }, circuit := { q.circuit with state := .prefill }
      })).port 2).circuit.state
      = .wait := by decide +kernel

theorem test_flush_end :
    ((after (.flushEnd 2) (inCircuit fun c => { c with state := .flush, flushCount := 1 })).port 2).circuit.state
      = .prefill := by decide +kernel

/-- R94: off its configured lane, with the peer present there, the revert timer runs for ten seconds. -/
theorem test_traffic_switch :
    let t := after (.trafficSwitch 2) (inCircuit fun c => { c with tally := ⟨false, false, 2, true⟩ })
    (t.port 2).circuit.current = some .B ∧ (t.port 2).circuit.revert = some 100000000 := by decide +kernel

theorem test_revert_timer :
    let t := after (.revertTimerExpiry 2) (inCircuit fun c => { c with current := some .B, revert := some 5 })
    t.now = 5 ∧ (t.port 2).circuit.current = some .A ∧ (t.port 2).circuit.revert = none := by decide +kernel

theorem test_line_loop :
    let t := after (.setLoopLine head) (onPort fun q => { q with tx := ⟨[1, 2], 3, true, false⟩ })
    (t.port 2).circuit.loop = .line ∧ (t.port 2).circuit.state = .flush ∧ (t.port 2).tx = ⟨[], 0, true, false⟩ := by
  decide +kernel

theorem test_local_loop_and_its_clearing :
    let t := after (.setLoopLocal head) st
    (t.port 2).circuit.loop = .loc ∧ ((after (.clearLoop head) t).port 2).circuit.loop = .none ∧
    ((after (.clearLoop head) t).changes.entries.map (·.what)) =
      [.circuitState 2 .flush, .circuitState 2 .flush] := by decide +kernel

/-- Section 5.7, 7,011.45 ms: sender lane B on current lane B sets ASYMMETRIC; on current lane A it is clear. -/
theorem test_asymmetric :
    asymmetricFor (some .B) (some .B) = true ∧ asymmetricFor (some .A) (some .B) = false ∧
    asymmetricFor none (some .B) = true ∧ asymmetricFor (some .A) none = true := by decide

/-! ### Chapter 6: the worked cases of section 6.7 -/

/-- Case 1: class W, target 4, gain 8. -/
theorem test_clock_case_1 :
    steer Image.reset #v[0x80, 0, 0, 4, 0, 0, 0, 0, 8, 0, 0, 0, 0] 1090 ⟨1200, 0, 0, 999800000, 256⟩ =
      ⟨1210, 0, 1290, 130240, 257⟩ := by decide +kernel

/-- Case 2: class S, target 4, gain 4. -/
theorem test_clock_case_2 :
    steer Image.reset #v[0x88, 0, 0, 4, 0, 0, 0, 0, 4, 0, 0, 0, 0] 27 ⟨-500, 0, 0, 0, 8⟩ =
      ⟨-510, 0, -590, -4720, 8⟩ := by decide +kernel

/-- Case 3: both limits, and the way back. -/
theorem test_clock_case_3 :
    let r : CircuitRecord := #v[0x80, 0, 0, 4, 0, 0, 0, 0, 16, 0, 0, 0, 0]
    (steer Image.reset r 2000 ⟨99990, 0, 0, 0, 256⟩).integrator = 100000 ∧
    (steer Image.reset r 2000 ⟨99990, 0, 0, 0, 256⟩).applied = 100000 ∧
    (steer Image.reset r 0 ⟨100000, 0, 0, 0, 256⟩).integrator = 95905 ∧
    (steer Image.reset r 0 ⟨100000, 0, 0, 0, 256⟩).applied = 63145 ∧
    (let c := holdover r ⟨0, -100000, 0, -999990000, 256⟩
     c.next = 255 ∧ c.accumulator = -25590000) := by decide +kernel

/-- Case 4: the deadband and truncation, class N. -/
theorem test_clock_case_4 :
    let r (g : Byte) : CircuitRecord := #v[0x84, 0, 0, 4, 0, 0, 0, 0, g, 0, 0, 0, 0]
    steerTerm Image.reset (r 16) 781 = 0 ∧ steerTerm Image.reset (r 3) 800 = 0 ∧
    steerTerm Image.reset (r 4) 800 = 1 ∧ steerTerm Image.reset (r 4) 744 = -1 := by decide +kernel

/-- Case 5: the loaded steer table put in order. -/
theorem test_clock_case_5 :
    raiseEntries 0 ([0, 8, 4, 30, 5000, 100, 200, 400, 800, 1600, 3200, 6400, 2500, 3000, 3500, 4000].map (min 4095)) =
      [0, 8, 8, 30] ++ List.replicate 12 4095 := by decide

/-! ### Chapter 7 -/

/-- Section 7.6: one round trip across the wrap of station time. -/
theorem test_round_trip : roundTrip 4294960000 812400554 812401670 35000 = 41180 := by decide

/-- Section 7.7: path figure, delay figure and the budget of 70. -/
theorem test_delay_figure :
    pathFigure [41230, 41180, 41410] = some 20590 ∧ overBudgetFor 70 (some 70590) = true ∧
    overBudgetFor 70 (some 69900) = false ∧ pathFigure [41230, 41180, 41410, 39800] = some 19900 ∧
    (let s := { st with image := { image with circuits := image.circuits.set 2 (circuitRec.set 3 4) } }
     s.delayFigure 2 = some 70590) := by decide +kernel

theorem test_echo_round :
    let t := after .echoRound { st with echoTimer := some 9 }
    t.ctl.sequence = 2 ∧ t.echoTimer = some 1000009 ∧
    (t.peers.map fun r => (r.lanes.a.outstanding, r.lanes.b.outstanding)) = [(some 9, some 9)] := by decide +kernel

theorem test_unmeasured :
    let t := after (.echoUnmeasured 0 .A) (withLane { peerLane with missed := 3 })
    (t.peers.map fun r => (r.lanes.a.samples, r.lanes.b.figure)) = [([], some 20590)] := by decide +kernel

/-! ### Chapter 8: section 8.6 -/

/-- 500.0 and 502.0 ms: CI rises, and two milliseconds later the command is on with activation 6. -/
theorem test_command_sent :
    let t := after (.ciChange 0 true) st
    (t.cmd 0).qualTimer = some 20000 ∧
    ((after (.qualificationExpiry 0) t).cmd 0).outgoing =
      some ⟨.on, 6, .awaiting, none, 0, some 40000, some 420000⟩ := by decide +kernel

theorem test_repeat_ends_the_release :
    ((after (.repeatTimerExpiry 0) (withOutgoing ⟨.releasing, 6, .answered, none, 1, some 9, none⟩)).cmd 0).outgoing =
      some ⟨.idle, 6, .answered, none, 0, none, none⟩ := by decide +kernel

theorem test_unanswered :
    let t := after (.answerTimerExpiry 0) (withOutgoing ⟨.on, 7, .awaiting, none, 0, some 60000, some 50000⟩)
    (t.cmd 0).outgoing = some ⟨.on, 7, .unanswered, none, 0, some 60000, none⟩ ∧
    t.changes.entries = [⟨50000, .cmdUnanswered 0 7⟩] := by decide +kernel

/-- 502.1 ms: the CMD is accepted; persistence runs 10 ms, the window 20 ms. -/
theorem test_command_received :
    let t := after (.frameArrival .A (cmdFrame 4100)) st
    (t.cmd 0).co = true ∧ (t.cmd 0).incoming =
      some ⟨.active, some 4100, some 2000000, some 7, some 0, some 100000, none, some ⟨7, false, false, some 200000⟩⟩ ∧
    t.changes.entries.map (·.what) = [.cmdReceived 0 7] := by decide +kernel

theorem test_refused_under_block :
    let t := after (.frameArrival .A (cmdFrame 4100)) (after (.blockChange true) st)
    (t.cmd 0).co = false ∧ ((t.cmd 0).incoming.map (·.state)) = some .refused ∧
    (t.forwarder .B).egress = .sending (withCheck (buildFrame .cmdAck 5 9 0 ([1, 7, 4] ++ zeros 44))) := by
  decide +kernel

theorem test_taken :
    let t := after (.tkChange 0 true) (withIncoming (inCycle false))
    ((t.cmd 0).incoming.bind (·.cycle)) = some ⟨7, false, true, none⟩ ∧
    (t.forwarder .A).egress = .sending (withCheck (buildFrame .cmdAck 5 9 0 ([1, 7, 1] ++ zeros 44))) := by
  decide +kernel

theorem test_taken_window :
    let t := after (.takenWindowExpiry 0) (withIncoming (inCycle false))
    (t.forwarder .A).egress = .sending (withCheck (buildFrame .cmdAck 5 9 0 ([1, 7, 0] ++ zeros 44))) := by
  decide +kernel

/-- Section 8.7, 720.1 ms: 20 ms since the assertion, below 50, so the record holds until 50 ms after it. -/
theorem test_persistence_and_hold :
    let r : Incoming := { incoming with
      state := .active, activation := some 7, assertTime := some 1000, persistence := some 201000 }
    let t := after (.persistenceTimerExpiry 0) (withIncoming r)
    ((t.cmd 0).incoming.map (·.state)) = some .holding ∧ ((t.cmd 0).incoming.bind (·.hold)) = some 501000 ∧
    (((after (.holdTimerExpiry 0) t).cmd 0).incoming.map (·.state)) = some .idle := by decide +kernel

theorem test_sequence_timer :
    (((after (.sequenceTimerExpiry 0) (withIncoming { incoming with lastSeq := some 4, seqTimer := some 9 })).cmd
      0).incoming.map (·.lastSeq)) = some none := by decide +kernel

/-! ### Chapter 9 -/

/-- Section 9.5: at 24 entries with the flag set nothing more is lost; a DRAIN takes eight and clears the flag. -/
theorem test_drain :
    let s := { held 32 with changes := { (held 32).changes with overflow := true } }
    let t := after (.drain head) s
    t.changes.entries.length = 24 ∧ t.changes.overflow = false ∧ t.changes.attn = true ∧
    (after (.drain head) (held 1)).changes = ⟨[], false, false⟩ := by decide +kernel

theorem test_entry_lost_when_full :
    ((held 32).pushChange (.laneOpen .B)).changes = { (held 32).changes with overflow := true } := by decide +kernel

/-- The reply lengths of section 11.4. -/
theorem test_reply_records :
    (stationRecord st).length = 126 ∧ (circuitRecordOf (st.setting 2) (st.port 2)).length = 94 ∧
    peer.octets.length = 92 := by decide +kernel

/-- A REFUSED QRY-R (status 1, empty record) to the asker, on both lanes. -/
def refusedReply (code : Byte) : Egress :=
  .sending (withCheck (buildFrame .qryR 5 9 0 ([code, 2, 1, 1, 1, 0] ++ zeros 41)))

theorem test_refused_queries :
    ((after (.readPeer head) st).forwarder .A).egress = refusedReply 3 ∧
    ((after (.unknownQueryKind 77 head) st).forwarder .B).egress = refusedReply 77 := by decide +kernel

theorem test_answered_queries :
    (∀ c ∈ [Instr.readStation head, .readCircuit head, .readCommand head], (after c st).ctl.sequence = 1) ∧
    (∀ c ∈ [Instr.readStation { head with dst := 63 }, .readCircuit { head with dst := 6 }], after c st = st) := by
  decide +kernel

theorem test_clear_counts :
    let s := st.countLane .A fun c => { c with stripped := 5 }
    ((after (.clearCounts head) s).forwarder .A).counts = LaneCounters.zero := by decide +kernel

theorem test_restart :
    let t := after (.restart head) st
    t.ctl = ⟨.quiet, some 5, some 2500000, 0⟩ ∧ (t.port 2).circuit.state = .wait ∧ t.image = st.image ∧
    (t.forwarder .A).egress = .idle := by decide +kernel

theorem test_counter_stops : bump 0xFFFFFFFE = 0xFFFFFFFF ∧ bump 0xFFFFFFFF = 0xFFFFFFFF := by decide

/-! ### Chapter 10 -/

/-- Section 10.4: straps 3 give LOAD; straps 63 give NO-ADDRESS. -/
theorem test_release :
    (after (.resetRelease 3 false) State.reset).ctl = ⟨.load, some 3, none, 0⟩ ∧
    (after (.resetRelease 63 true) State.reset).ctl.station = .noAddress := by decide +kernel

theorem test_cold_reset :
    (after .coldReset st).rstLow = true ∧ (after .coldReset st).image = Image.reset ∧
    ((after .coldReset st).port 2).circuit.state = .off := by decide +kernel

theorem test_quiet_expiry :
    let t := after .quietExpiry (stIn .quiet (some 20704330))
    t.now = 20704330 ∧ t.ctl.station = .run ∧ t.ctl.sequence = 3 ∧ t.mark .A = ⟨.closed, none, some 21004330⟩ := by
  decide +kernel

/-- The address byte of a write and of a read at CFGA low. -/
theorem test_address_byte :
    let s := after .busStart (writing id)
    (after (.addressByte 0x54) s).cfg.phase = .writing ∧ (after (.addressByte 0x55) s).cfg.out = some 1 ∧
    (after (.addressByte 0x56) s).cfg.ack = false := by decide +kernel

theorem test_stop : (after .busStop (writing fun c => { c with refusing := true })).cfg.refusing = false := by
  decide +kernel

/-- Section 10.4, transaction 3: kind 2 with index 4 is refused. -/
theorem test_load_byte :
    (after (.loadByte 0x44) (writing id)).cfg.refusing = true ∧
    (after (.loadByte 0x41) (writing id)).cfg.pointer = some ⟨.command 1, 0⟩ := by decide +kernel

theorem test_data_byte :
    let t := after (.dataByte ⟨0x63, true⟩) (writing fun c => { c with pointer := some ⟨.circuit 4, 12⟩ })
    t.cfg.pointer = none ∧ t.image.circuits[4][12] = 0x63 ∧ t.cfg.ack = true := by decide +kernel

/-- R182: the four bytes in their turn; a byte that is not acknowledged ends the read. -/
theorem test_status_bytes :
    let t (i : Fin 4) (acked : Bool) :=
      (after (.dataByte ⟨0, acked⟩) (writing fun c => { c with phase := .reading i, fault := 3 })).cfg
    (t 0 true).out = some 3 ∧ (t 1 true).out = some 0 ∧ (t 3 true).out = some 1 ∧ (t 3 true).phase = .reading 0 ∧
    (t 0 false).out = none ∧ (t 0 false).phase = .ignoring := by decide +kernel

/-- The circuits of section 10.4: 1 and 4 both to station 7, far ports as given. -/
def twoCircuits (far4 : Byte) (budget : Byte × Byte) : Image :=
  { Image.reset with
    station := #v[0x5A, 0x1C, 0x3E, 0x07, 0, 5]
    circuits := (Image.reset.circuits.set 1 #v[0x81, 7, 1, 3, 20, 20, 10, 5, 8, 0, 0, 0, 45]).set 4
      #v[0x80, 7, far4, 4, 20, 20, 10, 0, 8, 0, 0, budget.1, budget.2]
    commands := Image.reset.commands.set 1 #v[1, 7, 2, 40, 20, 50] }

/-- Transaction 4: fault 3. -/
theorem test_close_fails :
    let t := after .close (closing (twoCircuits 1 (0, 0)))
    t.cfg.fault = 3 ∧ t.ctl.station = .load ∧ t.cfg.ack = false := by decide +kernel

/-- Transaction 5, at 18,204,330: the image is clamped and one peer record is built. -/
theorem test_close_succeeds :
    let s := closing (twoCircuits 2 (1, 0xFE))
    let t := after .close { s with clock := { s.clock with time := 18204330 } }
    t.ctl = ⟨.quiet, some 5, some 20704330, 0⟩ ∧ t.image.echoPeriod = 10 ∧ recBudget t.image.circuits[4] = 500 ∧
    (t.peers.map fun r => (r.station, r.circuits, r.commands)) = [(7, 0b10010, 0b10)] ∧ t.cfg.fault = 0 := by
  decide +kernel

/-! ### One step -/

theorem test_idle_in_reset : step State.reset = .next State.reset := rfl

/-- R58, R111: before the CLOSE every port's transmit clock is of class W: 2,048 bits in an interval of 10,000 ticks. -/
theorem test_transmit_rate :
    (State.reset.elapse 250000).now = 10000 ∧
    (State.reset.elapse 250000).clock.txPhase[(3 : Fin 8)] - State.reset.clock.txPhase[(3 : Fin 8)] =
      2048 * Config.txBit := by decide +kernel

theorem test_idle_passes_a_quantum :
    (match step st with
      | .next t => t.clock.subTick
      | .fault _ => 0
      | .refused _ => 0) = 1 := by decide +kernel

end Sys2Proof.Tests
end

section
/-! The arbiter's order (section 1.5). -/

namespace Sys2Proof.Machine

/-- Settles O13 (R14).  Each clause about an IDLE egress is one branch of the arbiter's choice, given to what a grant
makes of the chosen frame. -/
theorem arbiterOrder : Obligations.ArbiterOrder := by
  intro L s l l'
  refine ⟨grant_sending L s, grant_empty L s, fun idle => ⟨?urgent, fun noUrgent => ⟨?transit, ?ordinary⟩⟩⟩
  case urgent =>
    intro older f newer queued olderOrdinary fUrgent
    exact grant_forwarder L s true f _ idle (nextFrame_urgent l older newer f queued olderOrdinary fUrgent)
  case transit =>
    intro f rest queued
    exact grant_forwarder L s false f _ idle (nextFrame_transit l f rest noUrgent queued)
  case ordinary =>
    intro f rest noTransit queued
    exact grant_forwarder L s true f _ idle (nextFrame_ordinary l f rest noUrgent noTransit queued)

end Sys2Proof.Machine
end

section
/-! The sorting of an arriving cell (section 4.3): its verdict by its distance from the play position, and what each
verdict makes of the state. -/

namespace Sys2Proof.Machine

/-! ### The verdict of a cell -/

theorem Engine.cellOf_isSome_iff (e : Engine) (count : BitVec 16) :
    (e.cellOf count).isSome ↔ ∃ h, e.buffer[slotOf count] = some h ∧ h.count = count := by
  unfold Engine.cellOf
  cases e.buffer[slotOf count] with
  | none => simp
  | some h => by_cases same : h.count = count <;> simp [same]

section
variable {e : Engine} {count : BitVec 16} {pos : Position} (positioned : e.position = some pos)
include positioned

theorem judgeCell_late (h : (count - pos.count).toNat = 0 ∧ 0 < pos.offset ∨ 32768 ≤ (count - pos.count).toNat) :
    judgeCell e count = .late := by
  simp only [judgeCell, positioned]
  rcases h with current | behind
  · rw [if_pos current]
  · rw [if_neg (by omega), if_neg (by omega), if_neg (by omega)]

/-- Within the window the buffer's slot decides. -/
theorem judgeCell_window (notCurrent : ¬((count - pos.count).toNat = 0 ∧ 0 < pos.offset))
    (near : (count - pos.count).toNat ≤ 15) :
    judgeCell e count = if (e.cellOf count).isSome then .duplicate else .stored := by
  simp only [judgeCell, positioned]
  rw [if_neg notCurrent, if_pos near]

theorem judgeCell_overrun (beyond : 16 ≤ (count - pos.count).toNat) (ahead : (count - pos.count).toNat ≤ 32767) :
    judgeCell e count = .overrun := by
  simp only [judgeCell, positioned]
  rw [if_neg (by omega), if_neg (by omega), if_pos ahead]

end

/-! ### What a verdict makes of the state -/

theorem acceptCell_eq_sortCell {p : Fin 8} {s : State} (c : HeldCell)
    (h : (s.port p).circuit.state = .prefill ∨ (s.port p).circuit.state = .play) :
    acceptCell p c s = sortCell p c s := by
  rcases h with prefill | play
  · simp only [acceptCell, prefill]
  · simp only [acceptCell, play]

section
variable {p : Fin 8} {c : HeldCell} {s : State}

theorem sortCell_late (h : judgeCell (s.port p).engine c.count = .late) :
    sortCell p c s = s.countPort p fun n => { n with late := bump n.late } := by
  simp only [sortCell, h]

theorem sortCell_duplicate (h : judgeCell (s.port p).engine c.count = .duplicate) :
    sortCell p c s = s.countPort p fun n => { n with duplicateCells := bump n.duplicateCells } := by
  simp only [sortCell, h]

theorem sortCell_stored (h : judgeCell (s.port p).engine c.count = .stored) :
    sortCell p c s = s.modPort p fun q =>
      { q with engine := q.engine.store c
               counts := { q.counts with cellsAccepted := bump q.counts.cellsAccepted } } := by
  simp only [sortCell, h]

theorem sortCell_overrun (h : judgeCell (s.port p).engine c.count = .overrun) : sortCell p c s = slip p s := by
  simp only [sortCell, h]

end

/-- R68: a slip saves the integrator from PLAY alone. -/
theorem slip_port (p : Fin 8) (s : State) :
    (slip p s).port p =
      { (s.port p).enterEmpty .flush with
        clk := if (s.port p).circuit.state = .play then (s.port p).clk.save else (s.port p).clk
        counts := { (s.port p).counts with slips := bump (s.port p).counts.slips } } := by
  by_cases play : (s.port p).circuit.state = .play <;>
    simp [slip, play, saveHeld, State.countPort, Port.enterEmpty]

/-- Settles O32 (R67).  Each clause is a row of the table: the verdict of the distance, then what that verdict makes of
the state. -/
theorem cellSorted : Obligations.CellSorted := by
  intro p c s pos sorting positioned q d slot t
  have sorted : t = sortCell p c s := acceptCell_eq_sortCell c sorting
  have held : (q.engine.cellOf c.count).isSome ↔ ∃ h, q.engine.buffer[slot] = some h ∧ h.count = c.count :=
    q.engine.cellOf_isSome_iff c.count
  refine ⟨?late, ?duplicate, ?stored, ?overrun⟩
  case late =>
    intro behind
    exact sorted.trans (sortCell_late (judgeCell_late positioned behind))
  case duplicate =>
    intro notCurrent near same
    have verdict := judgeCell_window positioned notCurrent near
    rw [if_pos (held.mpr same)] at verdict
    exact sorted.trans (sortCell_duplicate verdict)
  case stored =>
    intro notCurrent near others
    have verdict := judgeCell_window positioned notCurrent near
    rw [if_neg fun occupied => let ⟨h, inSlot, same⟩ := held.mp occupied; others h inSlot same] at verdict
    exact sorted.trans (sortCell_stored verdict)
  case overrun =>
    intro beyond ahead
    have slipped : t = slip p s := sorted.trans (sortCell_overrun (judgeCell_overrun positioned beyond ahead))
    exact ⟨slipped, by rw [slipped, slip_port]; rfl, by rw [slipped, slip_port]⟩

end Sys2Proof.Machine
end

section
/-! The clock loop's computation (chapter 6): the proportional term, the limit on a correction, and the accumulator that
turns the correction into an octet count. -/

namespace Sys2Proof.Machine

/-! ### The proportional term (R108) -/

section
variable (step gain : Nat)

@[simp] theorem proportional_zero : proportional step gain 0 = 0 := rfl

variable {e : Int}

theorem proportional_of_pos (h : 0 < e) : proportional step gain e = ((step * gain / 16 : Nat) : Int) := by
  rw [proportional, if_neg h.ne', if_pos h]

theorem proportional_of_neg (h : e < 0) : proportional step gain e = -((step * gain / 16 : Nat) : Int) := by
  rw [proportional, if_neg h.ne, if_neg h.not_gt]

theorem natAbs_proportional (h : e ≠ 0) : (proportional step gain e).natAbs = step * gain / 16 := by
  rcases h.lt_or_gt with neg | pos
  · rw [proportional_of_neg step gain neg, Int.natAbs_neg, Int.natAbs_natCast]
  · rw [proportional_of_pos step gain pos, Int.natAbs_natCast]

variable (e) in
theorem natAbs_proportional_le : (proportional step gain e).natAbs ≤ step * gain / 16 := by
  rcases eq_or_ne e 0 with rfl | h
  · simp
  · exact (natAbs_proportional step gain h).le

end

/-- Settles O39 (R108).  The last three clauses are the magnitude: a product below 16 truncates to nothing, gain 16
divides out, and a lesser gain only shortens the step. -/
theorem proportionalTerm : Obligations.ProportionalTerm := by
  intro im r fill e step p
  have term : p = proportional step (recGain r) e := rfl
  rw [term]
  refine ⟨?zero, proportional_of_pos _ _, proportional_of_neg _ _, ?truncated, ?fullGain, ?bound⟩
  case zero =>
    intro h
    rw [h, proportional_zero]
  case truncated =>
    intro small
    have le := natAbs_proportional_le step (recGain r) e
    rw [Nat.div_eq_of_lt small] at le
    exact Int.natAbs_eq_zero.mp (Nat.le_zero.mp le)
  case fullGain =>
    intro gain h
    rw [natAbs_proportional _ _ h, gain, Nat.mul_div_cancel _ (by decide)]
  case bound =>
    intro hstep gain
    calc (proportional step (recGain r) e).natAbs
        ≤ step * recGain r / 16 := natAbs_proportional_le ..
      _ ≤ step * 16 / 16 := Nat.div_le_div_right (Nat.mul_le_mul_left _ gain)
      _ = step := Nat.mul_div_cancel _ (by decide)
      _ ≤ 4095 := hstep

/-! ### The limit on a correction (R104, R109) -/

theorem clampPpb_eq_ite (x : Int) :
    clampPpb x = if 100000 < x then 100000 else if x < -100000 then -100000 else x := by
  simp only [clampPpb, Config.ppbLimit]
  split
  case isTrue above => omega
  case isFalse notAbove => split <;> omega

theorem natAbs_clampPpb_le (x : Int) : (clampPpb x).natAbs ≤ 100000 := by
  simp only [clampPpb, Config.ppbLimit]
  omega

/-! ### The accumulator (R110) -/

section
variable (n : Nat) (c : ClockLoop)

@[simp] theorem accumulate_integrator : (accumulate n c).integrator = c.integrator := by
  simp only [accumulate]; split_ifs <;> rfl
@[simp] theorem accumulate_held : (accumulate n c).held = c.held := by
  simp only [accumulate]; split_ifs <;> rfl
@[simp] theorem accumulate_applied : (accumulate n c).applied = c.applied := by
  simp only [accumulate]; split_ifs <;> rfl

variable {n c}

theorem accumulate_octetMore (h : 1000000000 ≤ c.accumulator + n * c.applied) :
    accumulate n c = { c with accumulator := c.accumulator + n * c.applied - 1000000000, next := n + 1 } :=
  if_pos h

theorem accumulate_octetFewer (h : c.accumulator + n * c.applied ≤ -1000000000) :
    accumulate n c = { c with accumulator := c.accumulator + n * c.applied + 1000000000, next := n - 1 } :=
  (if_neg (show ¬1000000000 ≤ c.accumulator + n * c.applied by omega)).trans (if_pos h)

theorem accumulate_sameOctets (above : -1000000000 < c.accumulator + n * c.applied)
    (below : c.accumulator + n * c.applied < 1000000000) :
    accumulate n c = { c with accumulator := c.accumulator + n * c.applied, next := n } :=
  (if_neg below.not_ge).trans (if_neg above.not_ge)

/-- One octet taken or given brings a sum of less than two octets back into R104's range. -/
theorem accumulate_accumulator_range (hacc : c.accumulator.natAbs ≤ 999999999)
    (hstep : (n * c.applied : Int).natAbs ≤ 1000000000) :
    (accumulate n c).accumulator.natAbs ≤ 999999999 := by
  rcases le_or_gt 1000000000 (c.accumulator + n * c.applied) with more | below
  · rw [accumulate_octetMore more]
    dsimp only
    omega
  rcases le_or_gt (c.accumulator + n * c.applied) (-1000000000) with fewer | above
  · rw [accumulate_octetFewer fewer]
    dsimp only
    omega
  · rw [accumulate_sameOctets above below]
    dsimp only
    omega

end

theorem RateClass.octets_le (k : RateClass) : k.octets ≤ 256 := by cases k <;> decide

/-- The largest cell at the largest correction moves the accumulator by less than an octet. -/
theorem natAbs_octets_mul_le {r : CircuitRecord} {a : Int} (h : a.natAbs ≤ 100000) :
    (recN r * a : Int).natAbs ≤ 1000000000 :=
  calc (recN r * a : Int).natAbs
      = recN r * a.natAbs := by rw [Int.natAbs_mul, Int.natAbs_natCast]
    _ ≤ 256 * 100000 := Nat.mul_le_mul (RateClass.octets_le _) h
    _ ≤ 1000000000 := by decide

/-! ### The steering computation (R109, R110) -/

section
variable (im : Image) (r : CircuitRecord) (fill : Nat) (c : ClockLoop)

/-- R109: the clock loop with the corrections of one steering computation, before the accumulator takes them up. -/
def ClockLoop.corrected (p : Int) (c : ClockLoop) : ClockLoop :=
  { c with integrator := clampPpb (c.integrator + p), applied := clampPpb (clampPpb (c.integrator + p) + 8 * p) }

theorem steer_eq_accumulate_corrected :
    steer im r fill c = accumulate (recN r) (c.corrected (steerTerm im r fill)) := rfl

theorem steer_integrator :
    (steer im r fill c).integrator = clampPpb (c.integrator + steerTerm im r fill) :=
  accumulate_integrator ..

theorem steer_held : (steer im r fill c).held = c.held := accumulate_held ..

theorem steer_applied :
    (steer im r fill c).applied = clampPpb ((steer im r fill c).integrator + 8 * steerTerm im r fill) := by
  rw [steer_integrator]
  exact accumulate_applied ..

theorem steer_accumulator_range (hacc : c.accumulator.natAbs ≤ 999999999) :
    (steer im r fill c).accumulator.natAbs ≤ 999999999 :=
  accumulate_accumulator_range hacc (natAbs_octets_mul_le (natAbs_clampPpb_le _))

end

/-- Settles O40 (R109, R110).  The corrections are limited by `clampPpb`; the sum in the statement is the one the
accumulator decides on, since accumulating leaves the applied correction. -/
theorem steeringComputation : Obligations.SteeringComputation := by
  intro im r fill c ok limit p c' sum
  obtain ⟨-, -, -, accLow, accHigh⟩ := ok
  have taken : c' = accumulate (recN r) (c.corrected p) := steer_eq_accumulate_corrected im r fill c
  have sum_eq : sum = (c.corrected p).accumulator + recN r * (c.corrected p).applied := by
    simp only [sum, taken, accumulate_applied]
    rfl
  have range : c'.accumulator.natAbs ≤ 999999999 := steer_accumulator_range im r fill c (by omega)
  refine ⟨(steer_integrator ..).trans (clampPpb_eq_ite _), (steer_applied ..).trans (clampPpb_eq_ite _), steer_held ..,
    ?more, ?fewer, ?same, by omega, by omega⟩
  case more =>
    intro h
    rw [sum_eq] at h ⊢
    rw [taken, accumulate_octetMore h]
    exact ⟨rfl, rfl⟩
  case fewer =>
    intro h
    rw [sum_eq] at h ⊢
    rw [taken, accumulate_octetFewer h]
    exact ⟨rfl, rfl⟩
  case same =>
    intro above below
    rw [sum_eq] at above below ⊢
    rw [taken, accumulate_sameOctets above below]
    exact ⟨rfl, rfl⟩

end Sys2Proof.Machine
end

section
/-! What every operation keeps, said once: the parts that only the station controller and the configuration port
change, and the properties of ports, commands, lanes, the change queue and peer records.  Each shared operation has one
lemma `…_kept`; the invariants of a step (QueuesOk, ClockLoopsOk, OutputsFollow, PeersOk, EnginesOk, StationOk), the
transitions of the station state and the fixed image follow from `exec_evolves` below. -/

namespace Sys2Proof.Safety

open Sys2Proof.Machine

/-! ### The relation -/

/-- R104, R63, R64, R82: a change of a port that keeps its clock loop and its playout buffer in order, and that neither
enables nor disables it. -/
structure PortKept (q q' : Port) : Prop where
  clk : ClockLoopOk q.clk → ClockLoopOk q'.clk
  engine : EngineOk q → EngineOk q'
  enabled : q'.enabled = q.enabled

/-- R10, R14, R15: the lanes' share of `QueuesOk`. -/
def LanesOk (s : State) : Prop :=
  (∀ L : Lane, (s.forwarder L).transit.length ≤ 16 ∧ (s.forwarder L).localQ.length ≤ 12) ∧ Settled s

/-- R166, R169: the change queue's share of `QueuesOk`. -/
def ChangesOk (c : ChangeQueue) : Prop := c.entries.length ≤ 32 ∧ c.attn = !c.entries.isEmpty

/-- The share of `PeersOk` that is about the records themselves. -/
def PeerPartsOk (s : State) : Prop := ∀ r ∈ s.peers, ∀ L : Lane, PeerLaneOk (r.lanes.get L)

/-- R36: station and roles of the peer records. -/
def roles (s : State) : List (Nat × BitVec 8 × BitVec 4) := s.peers.map fun r => (r.station, r.circuits, r.commands)

/-- Going from `s` to `t` the station state, the number, the quiet timer, a closed image, the peers' roles and which
circuits are OFF stay, and what the invariants say of each block is kept. -/
structure Kept (s t : State) : Prop where
  rstLow : t.rstLow = s.rstLow
  pending : t.pending = s.pending
  station : t.ctl.station = s.ctl.station
  number : t.ctl.number = s.ctl.number
  quiet : t.ctl.quiet = s.ctl.quiet
  image : s.closed = true → t.image = s.image
  roles : roles t = roles s
  ports : ∀ p, PortKept (s.port p) (t.port p)
  outputs : ∀ k, OutputFollows (s.cmd k) → OutputFollows (t.cmd k)
  lanes : LanesOk s → LanesOk t
  changes : ChangesOk s.changes → ChangesOk t.changes
  peers : PeerPartsOk s → PeerPartsOk t

theorem PortKept.refl (q : Port) : PortKept q q := ⟨id, id, rfl⟩

theorem PortKept.trans {q q' q'' : Port} (h : PortKept q q') (k : PortKept q' q'') : PortKept q q'' :=
  ⟨k.clk ∘ h.clk, k.engine ∘ h.engine, k.enabled.trans h.enabled⟩

/-- A change beside the clock loop, the buffer, the play position and the circuit state. -/
theorem PortKept.of_same {q q' : Port} (clk : q'.clk = q.clk) (buffer : q'.engine.buffer = q.engine.buffer)
    (position : q'.engine.position = q.engine.position) (state : q'.circuit.state = q.circuit.state) : PortKept q q' :=
  ⟨by rw [clk]; exact id, by unfold EngineOk; rw [buffer, position, state]; exact id, by simp only [Port.enabled, state]⟩

theorem Kept.closed {s t : State} (h : Kept s t) : t.closed = s.closed := by simp only [State.closed, h.station]

theorem Kept.refl (s : State) : Kept s s :=
  ⟨rfl, rfl, rfl, rfl, rfl, fun _ => rfl, rfl, fun _ => .refl _, fun _ => id, id, id, id⟩

theorem Kept.trans {s t u : State} (h : Kept s t) (k : Kept t u) : Kept s u where
  rstLow := k.rstLow.trans h.rstLow
  pending := k.pending.trans h.pending
  station := k.station.trans h.station
  number := k.number.trans h.number
  quiet := k.quiet.trans h.quiet
  image c := (k.image (h.closed.trans c)).trans (h.image c)
  roles := k.roles.trans h.roles
  ports p := (h.ports p).trans (k.ports p)
  outputs j := k.outputs j ∘ h.outputs j
  lanes := k.lanes ∘ h.lanes
  changes := k.changes ∘ h.changes
  peers := k.peers ∘ h.peers

theorem Kept.ite {s a b : State} (c : Prop) [Decidable c] (ha : c → Kept s a) (hb : Kept s b) :
    Kept s (if c then a else b) := by
  split
  · exact ha ‹c›
  · exact hb

theorem Kept.foldl {α : Type} (f : State → α → State) (h : ∀ s a, Kept s (f s a)) :
    ∀ (l : List α) (s : State), Kept s (l.foldl f s)
  | [], s => .refl s
  | a :: l, s => (h s a).trans (Kept.foldl f h l (f s a))

/-! ### From frames to what is kept -/

/-- The parts that none of the properties speaks of. -/
def asideParts : List Part := [.clock, .dup, .stats, .marks, .markTimer, .echoTimer, .block, .cfg, .tieBreak]

/-- Blocks whose own properties are kept, and parts of which no property speaks, may change. -/
theorem Kept.of_touches {s t : State} (h : Touches (asideParts ++ [.lanes, .changes, .ports, .cmds, .peers]) s t)
    (lanes : LanesOk s → LanesOk t) (changes : ChangesOk s.changes → ChangesOk t.changes)
    (ports : ∀ p, PortKept (s.port p) (t.port p)) (cmds : ∀ k, OutputFollows (s.cmd k) → OutputFollows (t.cmd k))
    (roles : Safety.roles t = Safety.roles s) (peers : PeerPartsOk s → PeerPartsOk t) : Kept s t where
  rstLow := h.same .rstLow (by decide)
  pending := h.same .pending (by decide)
  station := congrArg Controller.station (h.same .ctl (by decide) : t.ctl = s.ctl)
  number := congrArg Controller.number (h.same .ctl (by decide) : t.ctl = s.ctl)
  quiet := congrArg Controller.quiet (h.same .ctl (by decide) : t.ctl = s.ctl)
  image _ := h.same .image (by decide)
  roles := roles
  ports := ports
  outputs := cmds
  lanes := lanes
  changes := changes
  peers := peers

theorem LanesOk.of_lanes {s t : State} (h : t.lanes = s.lanes) (ok : LanesOk s) : LanesOk t := by
  simpa only [LanesOk, Settled, State.forwarder, h] using ok

theorem PortKept.of_ports {s t : State} (h : t.ports = s.ports) (p : Fin 8) : PortKept (s.port p) (t.port p) := by
  rw [State.port_of_ports h]
  exact .refl _

theorem outputs_of_cmds {s t : State} (h : t.cmds = s.cmds) (k : Fin 4) :
    OutputFollows (s.cmd k) → OutputFollows (t.cmd k) := by
  rw [State.cmd_of_cmds h]
  exact id

theorem roles_of_peers {s t : State} (h : t.peers = s.peers) : roles t = roles s := by simp only [roles, h]

theorem PeerPartsOk.of_peers {s t : State} (h : t.peers = s.peers) (ok : PeerPartsOk s) : PeerPartsOk t := by
  simpa only [PeerPartsOk, h] using ok

section
variable {s t : State}

theorem Kept.of_lanes (h : Touches (.lanes :: asideParts) s t) (lanes : LanesOk s → LanesOk t) : Kept s t :=
  .of_touches (h.mono (by decide)) lanes (by rw [show t.changes = s.changes from h.same .changes (by decide)]; exact id)
    (PortKept.of_ports (h.same .ports (by decide))) (outputs_of_cmds (h.same .cmds (by decide)))
    (roles_of_peers (h.same .peers (by decide))) (.of_peers (h.same .peers (by decide)))

theorem Kept.aside (h : Touches asideParts s t) : Kept s t :=
  .of_lanes (h.mono (by decide)) (.of_lanes (h.same .lanes (by decide)))

theorem Kept.of_changes (h : Touches [.changes] s t) (changes : ChangesOk s.changes → ChangesOk t.changes) : Kept s t :=
  .of_touches (h.mono (by decide)) (.of_lanes (h.same .lanes (by decide))) changes
    (PortKept.of_ports (h.same .ports (by decide))) (outputs_of_cmds (h.same .cmds (by decide)))
    (roles_of_peers (h.same .peers (by decide))) (.of_peers (h.same .peers (by decide)))

theorem Kept.of_ports (h : Touches [.ports] s t) (ports : ∀ p, PortKept (s.port p) (t.port p)) : Kept s t :=
  .of_touches (h.mono (by decide)) (.of_lanes (h.same .lanes (by decide)))
    (by rw [show t.changes = s.changes from h.same .changes (by decide)]; exact id)
    ports (outputs_of_cmds (h.same .cmds (by decide)))
    (roles_of_peers (h.same .peers (by decide))) (.of_peers (h.same .peers (by decide)))

theorem Kept.of_cmds (h : Touches [.cmds] s t) (cmds : ∀ k, OutputFollows (s.cmd k) → OutputFollows (t.cmd k)) :
    Kept s t :=
  .of_touches (h.mono (by decide)) (.of_lanes (h.same .lanes (by decide)))
    (by rw [show t.changes = s.changes from h.same .changes (by decide)]; exact id)
    (PortKept.of_ports (h.same .ports (by decide))) cmds
    (roles_of_peers (h.same .peers (by decide))) (.of_peers (h.same .peers (by decide)))

theorem Kept.of_peers (h : Touches [.peers] s t) (roles : Safety.roles t = Safety.roles s)
    (peers : PeerPartsOk s → PeerPartsOk t) : Kept s t :=
  .of_touches (h.mono (by decide)) (.of_lanes (h.same .lanes (by decide)))
    (by rw [show t.changes = s.changes from h.same .changes (by decide)]; exact id)
    (PortKept.of_ports (h.same .ports (by decide))) (outputs_of_cmds (h.same .cmds (by decide))) roles peers

end

theorem Kept.inSomeOrder {α : Type} (f : α → State → State) (h : ∀ a s, Kept s (f a s)) (s : State) (l : List α) :
    Kept s (s.inSomeOrder l f) := by
  have choices : Kept s { s with tieBreak := (arrange l.length s.tieBreak l).2 } := by
    refine .aside fun x hx => ?_
    cases x <;> first | rfl | exact absurd (by decide) hx
  exact choices.trans (.foldl _ (fun s a => h a s) _ _)

theorem PeerPartsOk.get {s : State} (ok : PeerPartsOk s) {i : Nat} {r : Peer} (h : s.peers[i]? = some r) (L : Lane) :
    PeerLaneOk (r.lanes.get L) := ok r (List.mem_of_getElem? h) L

end Sys2Proof.Safety
end

section
/-! What every shared operation keeps, block by block. -/

namespace Sys2Proof.Machine

open Sys2Proof.Safety

/-! ### Basic updates -/

theorem modPort_kept (s : State) (p : Fin 8) (f : Port → Port) (h : PortKept (s.port p) (f (s.port p))) :
    Kept s (s.modPort p f) :=
  .of_ports (modPort_touches s p f) fun q => by
    by_cases e : q = p
    · subst e
      rw [State.port_modPort_same]
      exact h
    · rw [State.port_modPort_other _ _ _ _ e]
      exact .refl _

theorem countPort_kept (s : State) (p : Fin 8) (f : CircuitCounters → CircuitCounters) : Kept s (s.countPort p f) :=
  modPort_kept s p _ (.of_same rfl rfl rfl rfl)

theorem modCmd_kept (s : State) (k : Fin 4) (f : Command → Command)
    (h : OutputFollows (s.cmd k) → OutputFollows (f (s.cmd k))) : Kept s (s.modCmd k f) :=
  .of_cmds (modCmd_touches s k f) fun j => by
    by_cases e : j = k
    · subst e
      rw [State.cmd_modCmd_same]
      exact h
    · rw [State.cmd_modCmd_other _ _ _ _ e]
      exact id

theorem pushChange_kept (s : State) (c : Change) : Kept s (s.pushChange c) := by
  refine .of_changes (pushChange_touches s c) fun ok => ?_
  obtain ⟨short, attn⟩ := ok
  rw [pushChange_changes]
  unfold withEntry ChangesOk
  split
  · exact ⟨by simp; omega, by simp⟩
  · exact ⟨short, attn⟩

theorem drained_ok (c : ChangeQueue) (ok : ChangesOk c) : ChangesOk c.drained :=
  ⟨by have := ok.1; simp [ChangeQueue.drained]; omega, rfl⟩

theorem roles_modify (l : List Peer) (i : Nat) (f : Peer → Peer)
    (h : ∀ r, ((f r).station, (f r).circuits, (f r).commands) = (r.station, r.circuits, r.commands)) :
    (l.modify i f).map (fun r => (r.station, r.circuits, r.commands)) =
      l.map fun r => (r.station, r.circuits, r.commands) := by
  refine List.ext_getElem? fun j => ?_
  simp only [List.getElem?_map, List.getElem?_modify]
  split
  · cases l[j]? with
    | none => rfl
    | some r => exact congrArg some (h r)
  · cases l[j]? <;> rfl

theorem modPeerLane_kept (s : State) (i : Nat) (L : Lane) (f : PeerLane → PeerLane)
    (h : ∀ r, s.peers[i]? = some r → PeerLaneOk (r.lanes.get L) → PeerLaneOk (f (r.lanes.get L))) :
    Kept s (s.modPeerLane i L f) := by
  refine .of_peers (modPeerLane_touches s i L f) (roles_modify _ _ _ fun _ => rfl) fun ok x hx M => ?_
  obtain ⟨j, hj⟩ := List.mem_iff_getElem?.1 hx
  rw [peers_modPeerLane] at hj
  split at hj
  · rename_i e
    subst e
    cases hr : s.peers[i]? with
    | none => simp [hr] at hj
    | some r =>
      simp only [hr, Option.map_some, Option.some.injEq] at hj
      subst hj
      by_cases e : M = L
      · subst e
        simpa using h r hr (ok.get hr M)
      · simpa [PerLane.get_set_other _ _ _ _ e] using ok.get hr M
  · exact ok.get hj M

/-! ### Clock loop (chapter 6) -/

theorem natAbs_of_clockLoopOk {c : ClockLoop} (ok : ClockLoopOk c) :
    c.integrator.natAbs ≤ 100000 ∧ c.held.natAbs ≤ 100000 ∧ c.applied.natAbs ≤ 100000 ∧
      c.accumulator.natAbs ≤ 999999999 := by
  unfold ClockLoopOk at ok
  omega

theorem clockLoopOk_of_natAbs {c : ClockLoop} (integrator : c.integrator.natAbs ≤ 100000)
    (held : c.held.natAbs ≤ 100000) (applied : c.applied.natAbs ≤ 100000)
    (accumulator : c.accumulator.natAbs ≤ 999999999) : ClockLoopOk c := by
  unfold ClockLoopOk
  omega

/-- R110: taking up at most a whole octet keeps the accumulator in range. -/
theorem accumulate_ok (r : CircuitRecord) {c : ClockLoop} (ok : ClockLoopOk c) : ClockLoopOk (accumulate (recN r) c) := by
  obtain ⟨integrator, held, applied, accumulator⟩ := natAbs_of_clockLoopOk ok
  exact clockLoopOk_of_natAbs (by simpa using integrator) (by simpa using held) (by simpa using applied)
    (accumulate_accumulator_range accumulator (natAbs_octets_mul_le applied))

theorem steer_ok (im : Image) (r : CircuitRecord) (fill : Nat) {c : ClockLoop} (ok : ClockLoopOk c) :
    ClockLoopOk (steer im r fill c) := by
  obtain ⟨-, held, -, accumulator⟩ := natAbs_of_clockLoopOk ok
  exact accumulate_ok r (clockLoopOk_of_natAbs (natAbs_clampPpb_le _) held (natAbs_clampPpb_le _) accumulator)

theorem holdover_ok (r : CircuitRecord) {c : ClockLoop} (ok : ClockLoopOk c) : ClockLoopOk (holdover r c) := by
  obtain ⟨integrator, held, -, accumulator⟩ := natAbs_of_clockLoopOk ok
  exact accumulate_ok r (clockLoopOk_of_natAbs integrator held held accumulator)

theorem save_ok {c : ClockLoop} (ok : ClockLoopOk c) : ClockLoopOk c.save :=
  let ⟨integrator, _, applied, accumulator⟩ := ok
  ⟨integrator, integrator, applied, accumulator⟩

theorem restore_ok {c : ClockLoop} (ok : ClockLoopOk c) : ClockLoopOk c.restore :=
  let ⟨_, held, applied, accumulator⟩ := ok
  ⟨held, held, applied, accumulator⟩

theorem start_ok (n : Nat) : ClockLoopOk (ClockLoop.start n) := by
  simp [ClockLoopOk, ClockLoop.start]

/-! ### Playout buffer (chapter 4) -/

/-- R63: each held cell stands in its slot, 0 to 15 counts from the play position. -/
def BufferOk (e : Engine) : Prop :=
  ∀ i : Fin 16, ∀ h, e.buffer[i] = some h → h.count.toNat % 16 = i.val ∧
    ∃ pos, e.position = some pos ∧ (h.count - pos.count).toNat ≤ 15

theorem engineOk_iff (q : Port) : EngineOk q ↔ BufferOk q.engine ∧
    (q.circuit.state = .off ∨ q.circuit.state = .wait ∨ q.circuit.state = .flush → q.engine.position = none) := Iff.rfl

theorem bufferOk_reset : BufferOk Engine.reset := by
  intro i h hh
  simp [Engine.reset] at hh

theorem slotOf_val (c : BitVec 16) : (slotOf c).val = c.toNat % 16 := rfl

theorem getElem_set_slot (b : Vector (Option HeldCell) 16) (c : BitVec 16) (x : Option HeldCell) (i : Fin 16) :
    (b.set (slotOf c) x)[i] = if i = slotOf c then x else b[i] := by
  simp only [Fin.getElem_fin, Vector.getElem_set, Fin.ext_iff]
  split <;> split <;> first | rfl | omega

theorem bufferOk_store {e : Engine} {c : HeldCell} {pos : Position} (ok : BufferOk e) (h : e.position = some pos)
    (near : (c.count - pos.count).toNat ≤ 15) : BufferOk (e.store c) := by
  intro i x hx
  rw [show (e.store c).buffer = e.buffer.set (slotOf c.count) (some c) from rfl, getElem_set_slot] at hx
  split at hx
  · rename_i e
    cases hx
    exact ⟨by rw [e, slotOf_val], pos, h, near⟩
  · exact ok i x hx

/-- R64, R66: the anchor of an empty buffer. -/
theorem bufferOk_anchor {e : Engine} {c : HeldCell} (ok : BufferOk e) (h : e.position = none) :
    BufferOk { e.store c with position := some ⟨c.count, 0⟩ } := by
  intro i x hx
  rw [show ({ e.store c with position := some ⟨c.count, 0⟩ } : Engine).buffer =
    e.buffer.set (slotOf c.count) (some c) from rfl, getElem_set_slot] at hx
  split at hx
  · rename_i e
    cases hx
    exact ⟨by rw [e, slotOf_val], _, rfl, by simp⟩
  · obtain ⟨-, pos, hp, -⟩ := ok i x hx
    rw [h] at hp
    cases hp

theorem cellOf_of_slot {e : Engine} {i : Fin 16} {x : HeldCell} (hx : e.buffer[i] = some x)
    (slot : x.count.toNat % 16 = i.val) : e.cellOf x.count = some x := by
  have hi : slotOf x.count = i := Fin.ext slot
  subst hi
  simp only [Engine.cellOf, hx, if_true]

/-- R71: the cell of the count that is left behind has left the buffer, so the others are 0 to 15 counts ahead. -/
theorem bufferOk_pass {e : Engine} {pos : Position} (n : Nat) (ok : BufferOk e) (h : e.position = some pos) :
    BufferOk (e.pass n pos) := by
  intro i x hx
  have old : e.buffer[i] = some x ∧ (pos.offset + 1 < n ∨ x.count ≠ pos.count) := by
    unfold Engine.pass at hx
    dsimp only at hx
    split at hx
    · exact ⟨hx, .inl ‹_›⟩
    split at hx
    · rw [getElem_set_slot] at hx
      split at hx
      · cases hx
      · rename_i e'
        exact ⟨hx, .inr fun hc => e' (Fin.ext (by rw [slotOf_val, ← hc, (ok i x hx).1]))⟩
    · rename_i none_held
      exact ⟨hx, .inr fun hc => none_held (by rw [← hc, cellOf_of_slot hx (ok i x hx).1]; rfl)⟩
  obtain ⟨hold, ahead⟩ := old
  obtain ⟨slot, pos', hp, near⟩ := ok i x hold
  rw [h] at hp
  cases hp
  refine ⟨slot, _, rfl, ?_⟩
  unfold Position.advance
  split
  · exact near
  · have : x.count ≠ pos.count := ahead.resolve_left ‹_›
    bv_omega

theorem takeOctet_unpositioned {r : CircuitRecord} {t : Take} (h : t.engine.position = none) :
    (takeOctet r t).engine = t.engine := by
  unfold takeOctet
  rw [h]

theorem takeOctets_unpositioned (r : CircuitRecord) : ∀ (n : Nat) (t : Take), t.engine.position = none →
    (takeOctets r n t).engine = t.engine
  | 0, _, _ => rfl
  | n + 1, t, h => by
    have one := takeOctet_unpositioned (r := r) h
    exact (takeOctets_unpositioned r n (takeOctet r t) (by rw [one]; exact h)).trans one

theorem takeOctet_bufferOk (r : CircuitRecord) (t : Take) (ok : BufferOk t.engine) : BufferOk (takeOctet r t).engine := by
  cases h : t.engine.position with
  | none => rw [takeOctet_unpositioned h]; exact ok
  | some pos =>
    have passed : (takeOctet r t).engine = t.engine.pass (recN r) pos := by
      unfold takeOctet
      rw [h]
    rw [passed]
    exact bufferOk_pass _ ok h

theorem takeOctets_bufferOk (r : CircuitRecord) : ∀ (n : Nat) (t : Take), BufferOk t.engine →
    BufferOk (takeOctets r n t).engine
  | 0, _, ok => ok
  | n + 1, t, ok => takeOctets_bufferOk r n (takeOctet r t) (takeOctet_bufferOk r t ok)

/-! ### Ports -/

/-- R65: a circuit that is not OFF is emptied on its way to WAIT or FLUSH. -/
theorem enterEmpty_kept {st : CircuitState} {q : Port} (h : q.enabled = true) (hs : st ≠ .off) :
    PortKept q (q.enterEmpty st) :=
  ⟨id, fun _ => ⟨bufferOk_reset, fun _ => rfl⟩, by rw [h]; simp [Port.enabled, Port.enterEmpty, hs]⟩

theorem Port.enabled_iff (q : Port) : q.enabled = true ↔ q.circuit.state ≠ .off := by simp [Port.enabled]

theorem enabled_of_state {q : Port} {st : CircuitState} (h : q.circuit.state = st) (hs : st ≠ .off) :
    q.enabled = true := by rw [Port.enabled_iff, h]; exact hs

theorem saved_kept (q : Port) : PortKept q { q with clk := q.clk.save } := ⟨save_ok, id, rfl⟩

theorem passOctets_kept (r : CircuitRecord) (os : Octets) (q : Port) : PortKept q (passOctets r os q) := by
  unfold passOctets
  split
  · exact .refl _
  · exact .of_same rfl rfl rfl rfl

/-! ### Circuits (chapters 5 and 7) -/

theorem evaluateDelay_kept (p : Fin 8) (s : State) : Kept s (evaluateDelay p s) := by
  unfold evaluateDelay
  have h0 := fun f h => modPort_kept s p f h
  exact .ite _ (fun _ => .ite _ (fun _ => h0 _ (.of_same rfl rfl rfl rfl))
    ((h0 _ (.of_same rfl rfl rfl rfl)).trans (pushChange_kept _ _))) (.refl _)

theorem updateAsymmetric_kept (p : Fin 8) (x : Option Lane) (s : State) : Kept s (updateAsymmetric p x s) := by
  unfold updateAsymmetric
  exact .ite _ (fun _ => .refl _)
    ((modPort_kept s p _ (.of_same rfl rfl rfl rfl)).trans (pushChange_kept _ _))

theorem toFlush_kept (p : Fin 8) (s : State) (h : (s.port p).enabled = true) : Kept s (toFlush p s) :=
  (modPort_kept s p _ (enterEmpty_kept h (by decide))).trans (pushChange_kept _ _)

theorem toWait_kept (p : Fin 8) (s : State) (h : (s.port p).enabled = true) : Kept s (toWait p s) :=
  (modPort_kept s p _ (enterEmpty_kept h (by decide))).trans (pushChange_kept _ _)

theorem saveHeld_kept (p : Fin 8) (s : State) : Kept s (saveHeld p s) := modPort_kept s p _ (saved_kept _)

theorem checkStarvation_kept (p : Fin 8) (s : State) : Kept s (checkStarvation p s) := by
  refine .ite _ (fun h => ?_) (.refl _)
  simp only [Bool.and_eq_true, beq_iff_eq] at h
  have counted := (countPort_kept s p fun c => { c with starvations := bump c.starvations }).trans (saveHeld_kept p _)
  exact counted.trans (toWait_kept p _ (((counted.ports p).enabled).trans (enabled_of_state h.1 (by decide))))

theorem checkIdleRun_kept (p : Fin 8) (s : State) : Kept s (checkIdleRun p s) := by
  refine .ite _ (fun h => ?_) (.refl _)
  simp only [Bool.and_eq_true, beq_iff_eq] at h
  exact toWait_kept p s (enabled_of_state h.1 (by decide))

theorem checkFlushEnd_kept (p : Fin 8) (s : State) : Kept s (checkFlushEnd p s) := by
  refine .ite _ (fun h => ?_) (.refl _)
  simp only [Bool.and_eq_true, beq_iff_eq] at h
  refine (modPort_kept s p _ ⟨id, fun ok => ⟨ok.1, fun hs => by simp at hs⟩, ?_⟩).trans (pushChange_kept _ _)
  rw [enabled_of_state h.1 (by decide)]
  rfl

theorem enterPlay_kept (p : Fin 8) (s : State) (h : (s.port p).enabled = true) : Kept s (enterPlay p s) := by
  refine (modPort_kept s p _ ⟨restore_ok, fun ok => ⟨ok.1, fun hs => by simp at hs⟩, ?_⟩).trans (pushChange_kept _ _)
  rw [h]
  rfl

theorem slip_kept (p : Fin 8) (s : State) (h : (s.port p).enabled = true) : Kept s (slip p s) := by
  have counted := countPort_kept s p fun c => { c with slips := bump c.slips }
  have saved := Kept.ite ((s.port p).circuit.state == .play) (fun _ => counted.trans (saveHeld_kept p _)) counted
  exact saved.trans (toFlush_kept p _ (((saved.ports p).enabled).trans h))

theorem switchLane_kept (p : Fin 8) (L : Lane) (s : State) : Kept s (switchLane p L s) :=
  ((modPort_kept s p _ (.of_same rfl rfl rfl rfl)).trans (pushChange_kept _ _)).trans (evaluateDelay_kept p _)

theorem checkPresence_kept (p : Fin 8) (s : State) : Kept s (checkPresence p s) := by
  unfold checkPresence
  split
  · exact .refl _
  · exact .ite _ (fun _ => switchLane_kept _ _ _) (.refl _)

theorem checkTraffic_kept (p : Fin 8) (s : State) : Kept s (checkTraffic p s) := by
  unfold checkTraffic
  split
  · exact .refl _
  · exact .ite _ (fun _ => switchLane_kept _ _ _) (.refl _)

theorem closeTally_kept (p : Fin 8) (s : State) : Kept s (closeTally p s) :=
  .ite _ (fun _ => (modPort_kept s p _ (.of_same rfl rfl rfl rfl)).trans (checkTraffic_kept p _)) (.refl _)

theorem presenceRevert_kept (p : Fin 8) (L : Lane) (b : Bool) (s : State) : Kept s (presenceRevert p L b s) :=
  .ite _ (fun _ => modPort_kept s p _ (.of_same rfl rfl rfl rfl)) (.refl _)

theorem presenceReport_kept (L : Lane) (b : Bool) (p : Fin 8) (s : State) : Kept s (presenceReport L b p s) := by
  unfold presenceReport
  split
  case h_1 => exact ((presenceRevert_kept p L b s).trans (checkPresence_kept p _)).trans (evaluateDelay_kept p _)
  case h_2 => exact evaluateDelay_kept p s
  all_goals exact .refl _

theorem selectLaneAtRun_kept (p : Fin 8) (s : State) : Kept s (selectLaneAtRun p s) :=
  .ite _ (fun _ => (modPort_kept s p _ (.of_same rfl rfl rfl rfl)).trans (checkPresence_kept p _)) (.refl _)

theorem requestLoop_kept (want : LoopState) (p : Fin 8) (s : State) (h : (s.port p).enabled = true) :
    Kept s (requestLoop want p s) := by
  refine .ite _ (fun _ => .refl _) ?_
  have looped := fun f k => modPort_kept s p f k
  refine (looped _ (.of_same rfl rfl rfl rfl)).trans (toFlush_kept p _ ?_)
  rw [State.port_modPort_same]
  exact h

/-! ### Playout engine (chapter 4) -/

theorem judgeCell_stored_near {e : Engine} {c : BitVec 16} (h : judgeCell e c = .stored) :
    ∃ pos, e.position = some pos ∧ (c - pos.count).toNat ≤ 15 := by
  unfold judgeCell at h
  split at h
  · cases h
  · rename_i pos hp
    refine ⟨pos, hp, ?_⟩
    dsimp only at h
    split at h
    · cases h
    split at h
    · assumption
    split at h <;> cases h

theorem judgeCell_anchors {e : Engine} {c : BitVec 16} (h : judgeCell e c = .anchors) : e.position = none := by
  unfold judgeCell at h
  split at h
  · assumption
  · dsimp only at h
    split at h
    · cases h
    split at h
    · split at h <;> cases h
    · split at h <;> cases h

/-- R66, R67: sorting keeps the buffer of a circuit in PREFILL or PLAY in order. -/
theorem sortCell_kept (p : Fin 8) (c : HeldCell) (s : State)
    (h : (s.port p).circuit.state = .prefill ∨ (s.port p).circuit.state = .play) : Kept s (sortCell p c s) := by
  have notIdle : ¬((s.port p).circuit.state = .off ∨ (s.port p).circuit.state = .wait ∨
      (s.port p).circuit.state = .flush) := by rcases h with h | h <;> simp [h]
  unfold sortCell
  split
  case h_1 hj =>
    exact modPort_kept s p _ ⟨id, fun ok => ⟨bufferOk_anchor ok.1 (judgeCell_anchors hj), fun hs => absurd hs notIdle⟩, rfl⟩
  case h_2 hj =>
    obtain ⟨pos, hp, near⟩ := judgeCell_stored_near hj
    exact modPort_kept s p _ ⟨id, fun ok => ⟨bufferOk_store ok.1 hp near, fun hs => absurd hs notIdle⟩, rfl⟩
  case h_3 => exact countPort_kept _ _ _
  case h_4 => exact countPort_kept _ _ _
  case h_5 => exact slip_kept p s (by rcases h with h | h <;> exact enabled_of_state h (by decide))

theorem acceptCell_kept (p : Fin 8) (c : HeldCell) (s : State) : Kept s (acceptCell p c s) := by
  unfold acceptCell
  split
  case h_1 => exact .refl _
  case h_2 h =>
    refine (countPort_kept s p _).trans (toFlush_kept p _ ?_)
    rw [State.countPort, State.port_modPort_same]
    exact enabled_of_state (q := s.port p) h (by decide)
  case h_3 => exact countPort_kept _ _ _
  case h_4 h => exact sortCell_kept p c s (.inl h)
  case h_5 h => exact sortCell_kept p c s (.inr h)

theorem sendFill_kept (p : Fin 8) (s : State) : Kept s (sendFill p s) := modPort_kept s p _ (passOctets_kept _ _ _)

theorem measureFill_kept (p : Fin 8) (s : State) : Kept s (measureFill p s) := by
  unfold measureFill
  exact modPort_kept s p _ (.of_same rfl rfl rfl rfl)

theorem computeClock_kept (p : Fin 8) (s : State) : Kept s (computeClock p s) := by
  unfold computeClock
  refine modPort_kept s p _ ⟨fun ok => ?_, id, rfl⟩
  dsimp only
  split
  · exact steer_ok _ _ _ ok
  · exact holdover_ok _ ok

theorem playTake_kept (p : Fin 8) (s : State) : Kept s (playTake p s) := by
  unfold playTake
  refine modPort_kept s p _ ?_
  refine PortKept.trans (q' := { (s.port p) with
    engine := _, counts := (takeOctets (s.setting p) _ ⟨(s.port p).engine, (s.port p).counts, [], false⟩).counts })
    ⟨id, fun ok => ⟨?_, fun hs => ?_⟩, rfl⟩ (passOctets_kept _ _ _)
  · exact takeOctets_bufferOk _ _ ⟨_, _, _, _⟩ ok.1
  · have unpositioned := ok.2 hs
    exact (congrArg Engine.position (takeOctets_unpositioned _ _ ⟨_, _, _, _⟩ unpositioned)).trans unpositioned

theorem playInterval_kept (p : Fin 8) (s : State) : Kept s (playInterval p s) :=
  (((playTake_kept p s).trans (checkStarvation_kept p _)).trans (measureFill_kept p _)).trans (computeClock_kept p _)

theorem prefillInterval_kept (p : Fin 8) (s : State) : Kept s (prefillInterval p s) :=
  ((((sendFill_kept p s).trans (modPort_kept _ p _ (.of_same rfl rfl rfl rfl))).trans
    (checkIdleRun_kept p _)).trans (measureFill_kept p _)).trans (computeClock_kept p _)

theorem countFlush_kept (p : Fin 8) (s : State) : Kept s (countFlush p s) :=
  (modPort_kept s p _ (.of_same rfl rfl rfl rfl)).trans (checkFlushEnd_kept p _)

theorem engineInterval_kept (p : Fin 8) (s : State) : Kept s (engineInterval p s) := by
  have filled := ((sendFill_kept p s).trans (measureFill_kept p _)).trans (computeClock_kept p _)
  unfold engineInterval
  split
  case h_1 => exact .refl _
  case h_2 => exact filled
  case h_3 => exact filled.trans (countFlush_kept p _)
  case h_4 h =>
    exact .ite _ (fun _ => (enterPlay_kept p s (enabled_of_state h (by decide))).trans (playInterval_kept p _))
      (prefillInterval_kept p s)
  case h_5 => exact playInterval_kept p s

theorem circuitInterval_kept (p : Fin 8) (s : State) : Kept s (circuitInterval p s) :=
  (engineInterval_kept p s).trans (closeTally_kept p _)

/-! ### Station time (R171) -/

theorem elapse_kept (s : State) (n : Nat) : Kept s (s.elapse n) := .aside ((elapse_touches s n).mono (by decide))

theorem reach_kept (s : State) (t : Time) : Kept s (s.reach t) := .aside ((reach_touches s t).mono (by decide))

theorem onExpiry_kept (s : State) (t : Timer) (f : State → State) (h : ∀ s, Kept s (f s)) : Kept s (s.onExpiry t f) := by
  unfold State.onExpiry
  split
  · exact .refl _
  · exact (reach_kept s _).trans (h _)

theorem running_kept (s : State) (f : State → State) (h : Kept s (f s)) : Kept s (s.running f) :=
  .ite _ (fun _ => .refl _) h

end Sys2Proof.Machine
end

section
/-! What the lanes, the delay unit, the assemblers, the command unit and the peer table keep. -/

namespace Sys2Proof.Machine

open Sys2Proof.Safety

/-! ### Peer records (chapters 2 and 7) -/

/-- R128: the figure of a sample ring. -/
theorem pathFigure_ok (samples : List Nat) :
    (pathFigure samples = none ↔ samples = []) ∧
      ∀ f, pathFigure samples = some f → ∃ x ∈ samples, f = x / 2 ∧ ∀ y ∈ samples, x ≤ y := by
  refine ⟨by simp [pathFigure, List.min?_eq_none_iff], fun f hf => ?_⟩
  obtain ⟨x, least, rfl⟩ := Option.map_eq_some_iff.1 hf
  rw [List.min?_eq_some_iff] at least
  exact ⟨x, least.1, rfl, least.2⟩

theorem peerLaneOk_of_samples {l : PeerLane} {samples : List Nat} (short : samples.length ≤ 8) (few : l.missed ≤ 3)
    (gone : l.missed = 3 → samples = []) :
    PeerLaneOk { l with samples := samples, figure := pathFigure samples } :=
  ⟨short, few, gone, pathFigure_ok samples⟩

theorem addSample_length (samples : List Nat) (x : Nat) (h : samples.length ≤ 8) : (addSample samples x).length ≤ 8 := by
  unfold addSample
  split <;> simp [Config.sampleCapacity] at * <;> omega

theorem withPart_kept {s : State} {i : Nat} {L : Lane} {r : Peer} {part : PeerLane} (h : s.peers[i]? = some r)
    (ok : PeerLaneOk (r.lanes.get L) → PeerLaneOk part) : Kept s (withPart i L r part s) := by
  have same : withPart i L r part s = s.modPeerLane i L fun _ => part := (modPeerLane_eq s i L r (fun _ => part) h).symm
  rw [same]
  refine modPeerLane_kept s i L _ fun r' hr => ?_
  rw [h] at hr
  cases hr
  exact ok

/-- R128, R130: a lane part that becomes another one in order, with the circuits that follow its figure. -/
theorem partBecomes_kept {s t : State} {i : Nat} {L : Lane} {r : Peer} {part : PeerLane} (h : s.peers[i]? = some r)
    (ok : PeerLaneOk (r.lanes.get L) → PeerLaneOk part) (becomes : PartBecomes i L r part s t) : Kept s t := by
  have part_kept := withPart_kept h ok
  by_cases same : part.figure = (r.lanes.get L).figure
  · rw [becomes.1 same]
    exact part_kept
  · obtain ⟨order, choices, -, rfl⟩ := becomes.2 same
    have chosen : Kept (withPart i L r part s) { withPart i L r part s with tieBreak := choices } := by
      refine .aside fun x hx => ?_
      cases x <;> first | rfl | exact absurd (by decide) hx
    exact (part_kept.trans chosen).trans (.foldl _ (fun s p => evaluateDelay_kept p s) _ _)

theorem unmeasure_kept (i : Nat) (L : Lane) (s : State) : Kept s (unmeasure i L s) := by
  unfold unmeasure
  split
  · exact .refl _
  rename_i r h
  refine .ite _ (fun _ => ?_) (.refl _)
  exact partBecomes_kept h (fun ok => peerLaneOk_of_samples (by simp) ok.2.1 fun _ => rfl) (setSamples_spec i L [] s r h)

theorem peerIndex_spec {s : State} {st i : Nat} (h : s.peerIndex st = some i) :
    ∃ r, s.peers[i]? = some r ∧ r.station = st ∧ ∀ j < i, ∀ x, s.peers[j]? = some x → x.station ≠ st := by
  obtain ⟨hi, found, before⟩ := List.findIdx?_eq_some_iff_getElem.1 h
  refine ⟨s.peers[i], List.getElem?_eq_getElem hi, by simpa using found, fun j hj x hx => ?_⟩
  obtain ⟨hjl, rfl⟩ := List.getElem?_eq_some_iff.1 hx
  simpa using before j hj

theorem fileEcho_kept (X : Lane) (st : Nat) (t1 : Time) (s : State) : Kept s (fileEcho X st t1 s) := by
  cases h : s.peerIndex st with
  | none =>
    have same : fileEcho X st t1 s = s := by
      unfold fileEcho
      rw [h]
    rw [same]
    exact .refl _
  | some i =>
    obtain ⟨r, hr, station, first⟩ := peerIndex_spec h
    refine partBecomes_kept hr (fun ok => ?_) (fileEcho_spec X st t1 s i r hr station first)
    obtain ⟨short, few, gone, figure⟩ := ok
    split
    · exact ⟨short, few, gone, figure⟩
    split
    · exact ⟨short, by dsimp only; omega, fun h => by dsimp only at h; omega, figure⟩
    · exact ⟨by simp, by simp, by simp, by simp⟩

theorem matchEcho_kept (L : Lane) (src : Nat) (body : Octets) (s : State) : Kept s (matchEcho L src body s) := by
  have stale := fun f => Kept.aside ((modStats_touches s f).mono (Q := asideParts) (by decide))
  unfold matchEcho
  split
  · exact stale _
  split
  · exact stale _
  rename_i r hr
  dsimp only
  refine .ite _ (fun _ => .ite _ (fun _ => ?_) ?_) (stale _)
  · refine (modPeerLane_kept s _ L _ fun _ _ ok => ?_).trans
      (partBecomes_kept (r := ?peer) ?there ?_ (setSamples_spec _ L _ _ _ ?there))
    · exact ⟨ok.1, by simp, by simp, ok.2.2.2⟩
    case there =>
      rw [peers_modPeerLane, if_pos rfl, hr, Option.map_some]
    · intro ok
      have short := ok.1
      simp only [PerLane.get_set_same] at short
      exact peerLaneOk_of_samples (addSample_length _ _ short) (by simp) (by simp)
  · refine (modPeerLane_kept s _ L _ fun _ _ ok => ok).trans (.aside ((modStats_touches _ _).mono (Q := asideParts) (by decide)))

/-! ### Lanes (chapter 1) -/

theorem modForwarder_kept (s : State) (L : Lane) (f : Forwarder → Forwarder)
    (transit : (f (s.forwarder L)).transit = (s.forwarder L).transit)
    (localQ : (f (s.forwarder L)).localQ = (s.forwarder L).localQ)
    (egress : (f (s.forwarder L)).egress = (s.forwarder L).egress) : Kept s (s.modForwarder L f) := by
  refine .of_lanes ((modForwarder_touches s L f).mono (by decide)) fun ok => ?_
  have same : ∀ M, ((s.modForwarder L f).forwarder M).transit = (s.forwarder M).transit ∧
      ((s.modForwarder L f).forwarder M).localQ = (s.forwarder M).localQ ∧
      ((s.modForwarder L f).forwarder M).egress = (s.forwarder M).egress := by
    intro M
    by_cases e : M = L
    · subst e
      rw [State.forwarder_modForwarder_same]
      exact ⟨transit, localQ, egress⟩
    · rw [State.forwarder_modForwarder_other _ _ _ _ e]
      exact ⟨rfl, rfl, rfl⟩
  simpa only [LanesOk, Settled, same] using ok

theorem countLane_kept (s : State) (L : Lane) (f : LaneCounters → LaneCounters) : Kept s (s.countLane L f) :=
  modForwarder_kept s L _ rfl rfl rfl

/-- R14: a granted frame leaves queues that are no longer; the egress is the arbiter's to set. -/
theorem nextFrame_shorter {l rest : Forwarder} {own : Bool} {f : Octets} (h : nextFrame l = some (own, f, rest)) :
    rest.transit.length ≤ l.transit.length ∧ rest.localQ.length ≤ l.localQ.length := by
  have urgent_shorter : ∀ {q : List Octets} {g : Octets} {q' : List Octets}, oldestUrgent q = some (g, q') →
      q'.length ≤ q.length := by
    intro q
    induction q with
    | nil => intro g q' h; simp [oldestUrgent] at h
    | cons a q ih =>
      intro g q' h
      unfold oldestUrgent at h
      split at h
      · cases h; simp
      · split at h
        · cases h
        · rename_i hq
          cases h
          simpa using ih hq
  unfold nextFrame at h
  split at h
  · rename_i hq
    cases h
    exact ⟨le_rfl, urgent_shorter hq⟩
  split at h
  · rename_i ht
    cases h
    exact ⟨by simp [ht], le_rfl⟩
  split at h
  · rename_i hl
    cases h
    exact ⟨le_rfl, by simp [hl]⟩
  · cases h

theorem nextFrame_none {l : Forwarder} (h : nextFrame l = none) : l.transit = [] ∧ l.localQ = [] := by
  unfold nextFrame at h
  split at h
  · cases h
  split at h
  · cases h
  split at h
  · cases h
  · exact ⟨by assumption, by assumption⟩

/-- What a grant does to lanes and clock, before an ECHO is filed. -/
def sendNext (L : Lane) (s : State) : State :=
  match (s.forwarder L).egress with
  | .sending _ => s
  | .idle =>
    match nextFrame (s.forwarder L) with
    | none => s
    | some (own, f, rest) =>
      startSending L (if own then withCheck (stamped f s.now) else f) (s.modForwarder L fun _ => rest)

theorem grant_eq_sendNext (L : Lane) (s : State) :
    grant L s = sendNext L s ∨ ∃ st, grant L s = fileEcho L st s.now (sendNext L s) := by
  cases he : (s.forwarder L).egress with
  | sending g => exact .inl (by simp only [grant, sendNext, he])
  | idle =>
    cases hn : nextFrame (s.forwarder L) with
    | none => exact .inl (by simp only [grant, sendNext, he, hn])
    | some x =>
      obtain ⟨own, f, rest⟩ := x
      simp only [grant, sendNext, he, hn]
      cases own
      · exact .inl rfl
      · simp only [if_true]
        split
        · exact .inr ⟨_, rfl⟩
        · exact .inl rfl

theorem sendNext_touches (L : Lane) (s : State) : Touches [.lanes, .clock] s (sendNext L s) := by
  unfold sendNext
  split
  · exact .refl _ _
  split
  · exact .refl _ _
  · exact ((modForwarder_touches s L _).mono (by decide)).trans (startSending_touches _ _ _)

theorem startSending_forwarder (L : Lane) (f : Octets) (s : State) :
    (startSending L f s).forwarder L = { s.forwarder L with egress := .sending f } := by
  simp [startSending, State.forwarder, State.modForwarder]

theorem startSending_other (L M : Lane) (f : Octets) (s : State) (h : M ≠ L) :
    (startSending L f s).forwarder M = s.forwarder M := by
  simp [startSending, State.forwarder, State.modForwarder, PerLane.get_set_other _ _ _ _ h]

theorem sendNext_other (L M : Lane) (s : State) (h : M ≠ L) : (sendNext L s).forwarder M = s.forwarder M := by
  unfold sendNext
  split
  · rfl
  split
  · rfl
  · rw [startSending_other _ _ _ _ h, State.forwarder_modForwarder_other _ _ _ _ h]

/-- R14, R15: after the grant the queues are no longer, and an egress that is still IDLE has nothing waiting. -/
theorem sendNext_same (L : Lane) (s : State) :
    ((sendNext L s).forwarder L).transit.length ≤ (s.forwarder L).transit.length ∧
    ((sendNext L s).forwarder L).localQ.length ≤ (s.forwarder L).localQ.length ∧
    (((sendNext L s).forwarder L).egress = .idle →
      ((sendNext L s).forwarder L).transit = [] ∧ ((sendNext L s).forwarder L).localQ = []) := by
  unfold sendNext
  split
  · rename_i hs
    exact ⟨le_rfl, le_rfl, fun hi => by rw [hs] at hi; cases hi⟩
  split
  · rename_i hn
    exact ⟨le_rfl, le_rfl, fun _ => nextFrame_none hn⟩
  · rename_i hn
    obtain ⟨transit, localQ⟩ := nextFrame_shorter hn
    rw [startSending_forwarder, State.forwarder_modForwarder_same]
    exact ⟨transit, localQ, fun hi => by cases hi⟩

/-- R10, R14, R15: a lane whose queues have changed within their capacities is settled by the grant that follows. -/
theorem grant_modForwarder_kept (s : State) (L : Lane) (f : Forwarder → Forwarder)
    (fits : (s.forwarder L).transit.length ≤ 16 → (s.forwarder L).localQ.length ≤ 12 →
      (f (s.forwarder L)).transit.length ≤ 16 ∧ (f (s.forwarder L)).localQ.length ≤ 12) :
    Kept s (grant L (s.modForwarder L f)) := by
  have sent : Kept s (sendNext L (s.modForwarder L f)) := by
    refine .of_lanes (((modForwarder_touches s L f).mono (by decide)).trans ((sendNext_touches L _).mono (by decide)))
      fun ok => ?_
    obtain ⟨capacities, settled⟩ := ok
    obtain ⟨transit, localQ, idle⟩ := sendNext_same L (s.modForwarder L f)
    rw [State.forwarder_modForwarder_same] at transit localQ
    have room := fits (capacities L).1 (capacities L).2
    have other : ∀ M, M ≠ L → (sendNext L (s.modForwarder L f)).forwarder M = s.forwarder M := fun M hM => by
      rw [sendNext_other _ _ _ hM, State.forwarder_modForwarder_other _ _ _ _ hM]
    refine ⟨fun M => ?_, fun M hi => ?_⟩
    · by_cases e : M = L
      · subst e
        exact ⟨transit.trans room.1, localQ.trans room.2⟩
      · rw [other M e]
        exact capacities M
    · by_cases e : M = L
      · subst e
        exact idle hi
      · rw [other M e] at hi ⊢
        exact settled M hi
  rcases grant_eq_sendNext L (s.modForwarder L f) with h | ⟨st, h⟩
  · rw [h]
    exact sent
  · rw [h]
    exact sent.trans (fileEcho_kept _ _ _ _)

theorem complete_kept (L : Lane) (s : State) : Kept s (complete L s) :=
  grant_modForwarder_kept s L _ fun h k => ⟨h, k⟩

theorem joinTransit_kept (L : Lane) (f : Octets) (s : State) : Kept s (joinTransit L f s) := by
  refine .ite _ (fun h => grant_modForwarder_kept s L _ fun _ k => ⟨?_, k⟩) (countLane_kept _ _ _)
  simp [Config.transitCapacity] at h ⊢
  omega

theorem offer_kept (f : Octets) (L : Lane) (s : State) : Kept s (offer f L s) := by
  unfold offer
  refine .ite _ (fun h => grant_modForwarder_kept s L _ fun k _ => ⟨k, ?_⟩) ?_
  · simp [Config.localCapacity] at h ⊢
    omega
  split
  · rename_i rest hd
    refine grant_modForwarder_kept s L _ fun k h => ⟨k, ?_⟩
    split at hd
    · have := dropNewestOrdinary_length hd
      simp
      omega
    · cases hd
  · exact countLane_kept _ _ _

theorem sequence_kept (s : State) (n : BitVec 16) : Kept s { s with ctl := { s.ctl with sequence := n } } :=
  ⟨rfl, rfl, rfl, rfl, rfl, fun _ => rfl, rfl, fun _ => .refl _, fun _ => id, id, id, id⟩

theorem originate_kept (k : FrameKind) (dst : Nat) (body : Octets) (lanes : List Lane) (s : State) :
    Kept s (originate k dst body lanes s) :=
  .ite _ (fun _ => (sequence_kept s _).trans (.foldl _ (fun s L => offer_kept _ L s) _ _)) (.refl _)

/-! ### Tributary ports (chapter 3) -/

theorem completeCell_kept (p : Fin 8) (o : Octets) (b : Bool) (s : State) : Kept s (completeCell p o b s) := by
  unfold completeCell
  have h0 := fun f h => modPort_kept s p f h
  exact .ite _ (fun _ => (h0 _ (.of_same rfl rfl rfl rfl)).trans (acceptCell_kept p _ _))
    ((h0 _ (.of_same rfl rfl rfl rfl)).trans (originate_kept _ _ _ _ _))

theorem setCell_kept (p : Fin 8) (c : Option CellTiming) (s : State) : Kept s (setCell p c s) :=
  modPort_kept s p _ (.of_same rfl rfl rfl rfl)

theorem assemblerOnset_kept (p : Fin 8) (s : State) : Kept s (assemblerOnset p s) := by
  unfold assemblerOnset
  split
  · exact .refl _
  · exact .refl _
  · exact setCell_kept _ _ _
  · exact (setCell_kept p _ s).trans (completeCell_kept _ _ _ _)

theorem assemblerOctet_kept (p : Fin 8) (o : Byte) (s : State) : Kept s (assemblerOctet p o s) := by
  unfold assemblerOctet
  split
  · exact .refl _
  · exact .refl _
  · exact .ite _ (fun _ => (setCell_kept p _ s).trans (completeCell_kept _ _ _ _)) (setCell_kept _ _ _)

theorem assemblerRegain_kept (p : Fin 8) (o : Byte) (s : State) : Kept s (assemblerRegain p o s) := by
  unfold assemblerRegain
  split
  · exact .refl _
  · exact assemblerOctet_kept _ _ _
  · exact (setCell_kept p _ s).trans (completeCell_kept _ _ _ _)

theorem loseLine_kept (p : Fin 8) (s : State) : Kept s (loseLine p s) := by
  unfold loseLine
  split
  · exact .refl _
  · exact (modPort_kept s p _ (.of_same rfl rfl rfl rfl)).trans (assemblerOnset_kept _ _)

theorem receiveOctet_kept (p : Fin 8) (o : Byte) (s : State) : Kept s (receiveOctet p o s) := by
  have h0 := fun f h => modPort_kept s p f h
  unfold receiveOctet
  dsimp only
  split
  · exact (h0 _ (.of_same rfl rfl rfl rfl)).trans (assemblerOctet_kept _ _ _)
  · exact (h0 _ (.of_same rfl rfl rfl rfl)).trans (assemblerRegain_kept _ _ _)

theorem gatherBit_kept (p : Fin 8) (b : Bool) (s : State) : Kept s (gatherBit p b s) :=
  .ite _ (fun _ => receiveOctet_kept _ _ _) (modPort_kept s p _ (.of_same rfl rfl rfl rfl))

theorem driveBit_kept (q : Port) : PortKept q (driveBit q) := by
  unfold driveBit
  split
  · split <;> exact .of_same rfl rfl rfl rfl
  · exact .of_same rfl rfl rfl rfl

/-! ### Echoes (chapter 7) -/

theorem echoRound_kept (s : State) : Kept s (echoRound s) :=
  .foldl _ (fun _ _ => (originate_kept _ _ _ _ _).trans (originate_kept _ _ _ _ _)) _ _

theorem answerEcho_kept (L : Lane) (src dst : Nat) (b : Octets) (s : State) : Kept s (answerEcho L src dst b s) :=
  .ite _ (fun _ => originate_kept _ _ _ _ _) (.refl _)

/-! ### Protection commands (chapter 8) -/

/-- A change of the outgoing record or of the pins and the qualifier. -/
theorem modCmd_kept_beside (s : State) (k : Fin 4) (f : Command → Command) (co : (f (s.cmd k)).co = (s.cmd k).co)
    (incoming : (f (s.cmd k)).incoming = (s.cmd k).incoming) : Kept s (s.modCmd k f) :=
  modCmd_kept s k f (by unfold OutputFollows; rw [co, incoming]; exact id)

theorem modOutgoing_kept (s : State) (k : Fin 4) (f : Outgoing → Outgoing) : Kept s (s.modOutgoing k f) :=
  modCmd_kept_beside s k _ rfl rfl

/-- R151: COk is asserted in these states of the incoming record. -/
def asserts (x : IncomingState) : Prop := x = .active ∨ x = .holding

theorem outputFollows_some {c : Command} {r : Incoming} (h : c.incoming = some r) :
    OutputFollows c ↔ (c.co = true ↔ asserts r.state) := by
  simp [OutputFollows, h, asserts]

/-- A change of the incoming record between states that agree on COk. -/
theorem modIncoming_kept (s : State) (k : Fin 4) (f : Incoming → Incoming)
    (h : ∀ r, (s.cmd k).incoming = some r → (asserts (f r).state ↔ asserts r.state)) :
    Kept s (s.modIncoming k f) := by
  refine modCmd_kept s k _ fun follows => ?_
  cases hr : (s.cmd k).incoming with
  | none =>
    simpa [OutputFollows, hr] using follows
  | some r =>
    rw [outputFollows_some hr] at follows
    rw [outputFollows_some (r := f r) (by simp)]
    exact follows.trans (h r hr).symm

theorem takeAssertion_kept (k : Fin 4) (s : State) : Kept s (takeAssertion k s) := by
  unfold takeAssertion
  split
  · exact .refl _
  · exact ((modOutgoing_kept s k _).trans (originate_kept _ _ _ _ _)).trans (pushChange_kept _ _)

theorem takeDeassertion_kept (k : Fin 4) (s : State) : Kept s (takeDeassertion k s) := by
  unfold takeDeassertion
  split
  · exact .refl _
  split
  · exact (modOutgoing_kept s k _).trans (originate_kept _ _ _ _ _)
  · exact .refl _
  · exact .refl _

theorem takeQualified_kept (k : Fin 4) (s : State) : Kept s (takeQualified k s) := by
  unfold takeQualified
  have h0 := fun f => modCmd_kept_beside s k f
  exact .ite _ (fun _ => .ite _ (fun _ => (h0 _ rfl rfl).trans (takeAssertion_kept _ _))
    ((h0 _ rfl rfl).trans (takeDeassertion_kept _ _))) (h0 _ rfl rfl)

theorem judgePin_kept (k : Fin 4) (s : State) : Kept s (judgePin k s) := by
  have h0 := fun f => modCmd_kept_beside s k f
  unfold judgePin
  exact .ite _ (fun _ => .refl _) (.ite _ (fun _ => h0 _ rfl rfl)
    (.ite _ (fun _ => takeQualified_kept _ _) (h0 _ rfl rfl)))

theorem repeatCmd_kept (k : Fin 4) (s : State) : Kept s (repeatCmd k s) := by
  unfold repeatCmd
  split
  · exact .refl _
  split
  · exact (modOutgoing_kept s k _).trans (originate_kept _ _ _ _ _)
  · exact (modOutgoing_kept s k _).trans (originate_kept _ _ _ _ _)
  · exact modOutgoing_kept s k _

theorem expireAnswer_kept (k : Fin 4) (s : State) : Kept s (expireAnswer k s) := by
  unfold expireAnswer
  split
  · exact .refl _
  split
  · exact (modOutgoing_kept s k _).trans (pushChange_kept _ _)
  all_goals exact modOutgoing_kept s k _

theorem modStats_kept (s : State) (f : StationCounters → StationCounters) : Kept s (s.modStats f) :=
  .aside ((modStats_touches s f).mono (by decide))

theorem unexpectedCommand_kept (s : State) : Kept s (unexpectedCommand s) := modStats_kept s _

theorem receiveCmdAck_kept (src : Nat) (b : Octets) (s : State) : Kept s (receiveCmdAck src b s) := by
  unfold receiveCmdAck
  split
  · exact unexpectedCommand_kept s
  split
  · exact unexpectedCommand_kept s
  refine .ite _ (fun _ => ?_) (unexpectedCommand_kept s)
  split
  · exact modOutgoing_kept _ _ _
  · exact modStats_kept _ _

theorem answerCycle_kept (k : Fin 4) (b : Bool) (s : State) : Kept s (answerCycle k b s) := by
  unfold answerCycle
  split
  · exact .refl _
  split
  · exact .refl _
  exact .ite _ (fun _ => .refl _) ((modIncoming_kept s k _ fun _ _ => by rfl).trans (originate_kept _ _ _ _ _))

theorem startCycle_kept (k : Fin 4) (a : BitVec 8) (b : Bool) (s : State) : Kept s (startCycle k a b s) := by
  unfold startCycle
  have opened := fun f h => modIncoming_kept s k f h
  exact .ite _ (fun _ => (opened _ fun _ _ => by rfl).trans (answerCycle_kept _ _ _)) (opened _ fun _ _ => by rfl)

/-- R147: an activation comes from IDLE or REFUSED, in which COk is released. -/
theorem activate_kept (k : Fin 4) (a : BitVec 8) (s : State) (r : Incoming) (h : (s.cmd k).incoming = some r)
    (released : ¬asserts r.state) : Kept s (activate k a s) := by
  unfold activate
  refine .ite _ (fun _ => ?_) ?_
  · refine (modIncoming_kept s k _ fun x hx => ?_).trans (originate_kept _ _ _ _ _)
    rw [h] at hx
    cases hx
    exact ⟨fun hs => by simp [asserts] at hs, fun hs => absurd hs released⟩
  · refine Kept.trans (.trans (modCmd_kept s k _ fun _ => ?_) (startCycle_kept _ _ _ _)) (pushChange_kept _ _)
    rw [h, Option.map_some, outputFollows_some rfl]
    exact ⟨fun _ => .inl rfl, fun _ => rfl⟩

theorem acceptOn_kept (k : Fin 4) (a : BitVec 8) (s : State) : Kept s (acceptOn k a s) := by
  have changed := fun f h => modIncoming_kept s k f h
  unfold acceptOn
  split
  · exact .refl _
  rename_i r hr
  dsimp only
  split
  case h_1 hs => exact activate_kept k a s r hr (by rw [hs]; simp [asserts])
  case h_2 => exact .ite _ (fun _ => changed _ fun _ _ => by rfl) ((changed _ fun _ _ => by rfl).trans (startCycle_kept _ _ _ _))
  case h_3 hs =>
    refine (changed _ fun x hx => ?_).trans (startCycle_kept _ _ _ _)
    rw [hr] at hx
    cases hx
    simp [asserts, hs]
  case h_4 hs => exact .ite _ (fun _ => changed _ fun _ _ => by rfl) (activate_kept k a s r hr (by rw [hs]; simp [asserts]))

/-- R150: a record that exists becomes IDLE and COk is released. -/
theorem releaseToIdle_kept (k : Fin 4) (s : State) : Kept s (releaseToIdle k s) := by
  refine modCmd_kept s k _ fun _ => ?_
  cases hr : (s.cmd k).incoming <;> simp [OutputFollows]

theorem beginRelease_kept (k : Fin 4) (s : State) (r : Incoming) (h : (s.cmd k).incoming = some r)
    (active : r.state = .active) : Kept s (beginRelease k s) := by
  unfold beginRelease
  rw [h]
  refine .ite _ (fun _ => releaseToIdle_kept _ _) (modIncoming_kept s k _ fun x hx => ?_)
  rw [h] at hx
  cases hx
  simp [asserts, active]

theorem endActivation_kept (k : Fin 4) (s : State) : Kept s (endActivation k s) := by
  unfold endActivation
  split
  · exact .refl _
  rename_i r hr
  split
  case h_1 hs => exact beginRelease_kept k s r hr hs
  case h_2 => exact releaseToIdle_kept _ _
  all_goals exact .refl _

theorem receiveCmd_kept (src : Nat) (q : BitVec 16) (b : Octets) (s : State) : Kept s (receiveCmd src q b s) := by
  unfold receiveCmd
  split
  · exact unexpectedCommand_kept s
  split
  · exact unexpectedCommand_kept s
  have noted := fun k f h => modIncoming_kept s k f h
  refine .ite _ (fun _ => .ite _ (fun _ => ?_) ?_) (unexpectedCommand_kept s)
  · exact (noted _ _ fun _ _ => by rfl).trans (acceptOn_kept _ _ _)
  · exact (noted _ _ fun _ _ => by rfl).trans (endActivation_kept _ _)

/-! ### Marks and peers (chapter 2) -/

theorem setDup_kept (s : State) (n : Nat) (e : Option DupEntry) : Kept s (s.setDup n e) :=
  .aside ((setDup_touches s n e).mono (by decide))

theorem restartAge_kept (n : Nat) (s : State) : Kept s (restartAge n s) :=
  .aside ((restartAge_touches n s).mono (by decide))

theorem modMark_kept (s : State) (L : Lane) (f : MarkLane → MarkLane) : Kept s (s.modMark L f) :=
  .aside ((modMark_touches s L f).mono (by decide))

theorem openLane_kept (L : Lane) (s : State) : Kept s (openLane L s) :=
  (modMark_kept s L _).trans (pushChange_kept _ _)

theorem reportPresence_kept (r : Peer) (L : Lane) (b : Bool) (s : State) : Kept s (reportPresence r L b s) :=
  .inSomeOrder _ (fun p s => presenceReport_kept L b p s) _ _

theorem peerMark_kept (i : Nat) (L : Lane) (hop : Nat) (s : State) : Kept s (peerMark i L hop s) := by
  unfold peerMark
  split
  · exact .refl _
  have heard := fun f h => modPeerLane_kept s i L f h
  dsimp only
  refine .ite _ (fun _ => heard _ fun _ _ ok => ok) (Kept.trans ?_ (reportPresence_kept _ _ _ _))
  exact .ite _ (fun _ => heard _ fun _ _ ok => ok) ((heard _ fun _ _ ok => ok).trans (pushChange_kept _ _))

theorem loseLane_kept (i : Nat) (L : Lane) (s : State) : Kept s (loseLane i L s) := by
  unfold loseLane
  split
  · exact .refl _
  have absent := fun f h => modPeerLane_kept s i L f h
  have entered : ∀ (c : Change) (b : Bool) f,
      (∀ r, s.peers[i]? = some r → PeerLaneOk (r.lanes.get L) → PeerLaneOk (f (r.lanes.get L))) →
      Kept s (if b = true then s.modPeerLane i L f else (s.modPeerLane i L f).pushChange c) := fun c b f h =>
    .ite _ (fun _ => absent _ h) ((absent _ h).trans (pushChange_kept _ _))
  exact .ite _ (fun _ => (entered _ _ _ fun _ _ ok => ok).trans (reportPresence_kept _ _ _ _)) (entered _ _ _ fun _ _ ok => ok)

end Sys2Proof.Machine
end

section
/-! What one command does to the state as a whole: it keeps what `Kept` says, or it is one of the station controller's
turns (entry to RUN, warm restart, CLASH, CLOSE, cold reset and its release) between two such stretches. -/

namespace Sys2Proof.Machine

open Sys2Proof.Safety

/-! ### The turns of the station controller -/

/-- R175: the state at entry to RUN, before the blocks take their tasks. -/
def runReady (s : State) : State :=
  { s with
    ctl := { s.ctl with station := .run, quiet := none }
    marks := PerLane.both ⟨.closed, none, some (s.after Config.returnPeriod)⟩
    markTimer := some (s.after Config.markPeriod)
    echoTimer := some (s.after (s.image.echoPeriod * Config.ticksPerMs)) }.mapPorts
      fun _ q => startAssembler (s.after Config.cellTicks) q

theorem enterRun_eq (s : State) : enterRun s = (runReady s).inSomeOrder (runReady s).runTasks runTask := rfl

/-- R177: the state at entry to CLASH, before the circuits are taken to WAIT. -/
def clashReady (s : State) : State :=
  { s with
    ctl := { s.ctl with station := .clash, quiet := none }
    lanes := s.lanes.map fun (l : Forwarder) => { l with localQ := [] }
    markTimer := none
    echoTimer := none }.mapCmds fun _ c => c.restarted

theorem enterClash_eq (s : State) :
    enterClash s = (clashReady s).inSomeOrder (clashReady s).enabledPorts clashCircuit := rfl

/-- R181: the state at a successful CLOSE, before the pins that are high start their qualification. -/
def closeReady (s : State) : State :=
  let im := clampImage s.image
  (({ s with
    image := im
    peers := buildPeers im
    ctl := s.ctl.enterQuiet (s.after Config.quietPeriod)
    lanes := s.lanes.map fun (l : Forwarder) => { l with counts := LaneCounters.zero }
    dup := Vector.replicate 62 none
    stats := StationCounters.zero
    marks := PerLane.both MarkLane.reset
    markTimer := none
    echoTimer := none
    changes := ChangeQueue.empty
    cfg := { s.cfg with fault := 0 } }.mapPorts fun p q => q.closed im.circuits[p]).mapCmds
      fun k c => c.closed im.commands[k])

theorem closeImage_eq (s : State) : closeImage s = qualifyHighPins (closeReady s) := rfl

end Sys2Proof.Machine

namespace Sys2Proof.Safety

open Sys2Proof.Machine

/-- What the station controller does at one moment (R165, R174, R175, R177, R181). -/
inductive Turn : State → State → Prop where
  | run {s : State} (h : s.ctl.station = .quiet) : Turn s (runReady s)
  | restart {s : State} (h : s.ctl.station = .run) : Turn s (warmRestart s)
  | clash {s : State} (h : s.ctl.station = .quiet ∨ s.ctl.station = .run) : Turn s (clashReady s)
  | close {s : State} (h : s.ctl.station ≠ .noAddress) (opened : s.closed = false) : Turn s (closeReady s)

/-- Going from `s` to `t` the properties are kept, with one turn of the station controller at most. -/
def Evolves (s t : State) : Prop := Kept s t ∨ ∃ a b, Kept s a ∧ Turn a b ∧ Kept b t

theorem Kept.evolves {s t : State} (h : Kept s t) : Evolves s t := .inl h

theorem Turn.evolves {s t : State} (h : Turn s t) : Evolves s t := .inr ⟨s, t, .refl s, h, .refl t⟩

theorem Kept.then {s t u : State} (h : Kept s t) (k : Evolves t u) : Evolves s u := by
  rcases k with k | ⟨a, b, k, turn, l⟩
  · exact .inl (h.trans k)
  · exact .inr ⟨a, b, h.trans k, turn, l⟩

theorem Evolves.then {s t u : State} (h : Evolves s t) (k : Kept t u) : Evolves s u := by
  rcases h with h | ⟨a, b, h, turn, l⟩
  · exact .inl (h.trans k)
  · exact .inr ⟨a, b, h, turn, l.trans k⟩

theorem Evolves.ite {s a b : State} (c : Prop) [Decidable c] (ha : c → Evolves s a) (hb : Evolves s b) :
    Evolves s (if c then a else b) := by
  split
  · exact ha ‹c›
  · exact hb

end Sys2Proof.Safety

namespace Sys2Proof.Machine

open Sys2Proof.Safety

theorem running_evolves (s : State) (f : State → State) (h : Evolves s (f s)) : Evolves s (s.running f) :=
  .ite _ (fun _ => (Kept.refl s).evolves) h

theorem tieBreak_kept (s : State) (choices : List Nat) : Kept s { s with tieBreak := choices } := by
  refine .aside fun x hx => ?_
  cases x <;> first | rfl | exact absurd (by decide) hx

/-! ### Entry to RUN, warm restart, CLASH -/

theorem runTask_kept (t : RunTask) (s : State) : Kept s (runTask t s) := by
  cases t with
  | mark => exact originate_kept _ _ _ _ _
  | echoes => exact echoRound_kept s
  | lane p => exact selectLaneAtRun_kept p s
  | assertion k => exact takeAssertion_kept k s

theorem enterRun_evolves (s : State) (h : s.ctl.station = .quiet) : Evolves s (enterRun s) :=
  (Turn.run h).evolves.then (.inSomeOrder _ runTask_kept _ _)

theorem clashCircuit_kept (p : Fin 8) (s : State) (h : (s.port p).enabled = true) : Kept s (clashCircuit p s) := by
  have saved := Kept.ite ((s.port p).circuit.state == .play) (fun _ => saveHeld_kept p s) (.refl s)
  have waiting := saved.trans (.ite ((s.port p).circuit.state == .wait) (fun _ => .refl _)
    (toWait_kept p _ (((saved.ports p).enabled).trans h)))
  unfold clashCircuit
  exact waiting.trans (modPort_kept _ p _ (.of_same rfl rfl rfl rfl))

theorem mem_enabledPorts (s : State) (p : Fin 8) : p ∈ s.enabledPorts ↔ (s.port p).enabled = true := by
  simp [State.enabledPorts, mem_allPorts]

/-- Enabled circuits that are taken one after another are still enabled when their turn comes. -/
theorem foldl_clashCircuit_kept : ∀ (l : List (Fin 8)) (s : State), (∀ p ∈ l, (s.port p).enabled = true) →
    Kept s (l.foldl (fun s p => clashCircuit p s) s)
  | [], s, _ => .refl s
  | p :: l, s, h => by
    have first := clashCircuit_kept p s (h p (by simp))
    exact first.trans (foldl_clashCircuit_kept l _ fun q hq => ((first.ports q).enabled).trans (h q (by simp [hq])))

theorem enterClash_evolves (s : State) (h : s.ctl.station = .quiet ∨ s.ctl.station = .run) :
    Evolves s (enterClash s) := by
  refine (Turn.clash h).evolves.then ((tieBreak_kept _ _).trans (foldl_clashCircuit_kept _ _ fun p hp => ?_))
  have listed := (arrange_perm _ _ _ (Nat.le_refl _)).mem_iff.1 hp
  exact (mem_enabledPorts _ p).1 listed

/-! ### Queries -/

theorem queried_kept (s : State) (q : QueryHead) (f : State → State) (h : Kept s (f s)) : Kept s (s.queried q f) :=
  .ite _ (fun _ => h) (.refl _)

theorem reply_kept (code : Byte) (q : QueryHead) (status : Byte) (record : Octets) (s : State) :
    Kept s (reply code q status record s) := originate_kept _ _ _ _ _

theorem answerReadCircuit_kept (q : QueryHead) (s : State) : Kept s (answerReadCircuit q s) := by
  unfold answerReadCircuit
  split <;> exact reply_kept _ _ _ _ _

theorem answerReadPeer_kept (q : QueryHead) (s : State) : Kept s (answerReadPeer q s) := by
  unfold answerReadPeer
  split <;> exact reply_kept _ _ _ _ _

theorem answerReadCommand_kept (q : QueryHead) (s : State) : Kept s (answerReadCommand q s) := by
  unfold answerReadCommand
  split <;> exact reply_kept _ _ _ _ _

theorem changes_touches (s : State) (c : ChangeQueue) : Touches [.changes] s { s with changes := c } := by
  intro x hx; cases x <;> first | rfl | simp at hx

theorem answerDrain_kept (q : QueryHead) (s : State) : Kept s (answerDrain q s) :=
  Kept.trans (t := { s with changes := s.changes.drained })
    (Kept.of_changes (changes_touches s _) (drained_ok _)) (reply_kept _ _ _ _ _)

theorem answerLoop_kept (code : Byte) (want : LoopState) (q : QueryHead) (s : State) :
    Kept s (answerLoop code want q s) := by
  unfold answerLoop
  split
  · exact reply_kept _ _ _ _ _
  · exact .ite _ (fun h => (requestLoop_kept _ _ s h).trans (reply_kept _ _ _ _ _)) (reply_kept _ _ _ _ _)

theorem clearCounters_touches (s : State) : Touches [.lanes, .stats, .ports] s (clearCounters s) := by
  intro x hx; cases x <;> first | rfl | simp at hx

theorem lanesOk_map {s t : State} (f : Forwarder → Forwarder) (h : t.lanes = s.lanes.map f)
    (transit : ∀ l, (f l).transit = l.transit) (localQ : ∀ l, (f l).localQ = l.localQ ∨ (f l).localQ = [])
    (egress : ∀ l, (f l).egress = l.egress) (ok : LanesOk s) : LanesOk t := by
  have mapped : ∀ L, t.forwarder L = f (s.forwarder L) := fun L => by simp [State.forwarder, h]
  obtain ⟨capacities, settled⟩ := ok
  refine ⟨fun L => ?_, fun L hi => ?_⟩
  · rw [mapped, transit]
    refine ⟨(capacities L).1, ?_⟩
    rcases localQ (s.forwarder L) with h | h
    · rw [h]; exact (capacities L).2
    · rw [h]; simp
  · rw [mapped, egress] at hi
    rw [mapped, transit]
    refine ⟨(settled L hi).1, ?_⟩
    rcases localQ (s.forwarder L) with h | h
    · rw [h]; exact (settled L hi).2
    · exact h

theorem clearCounters_kept (s : State) : Kept s (clearCounters s) := by
  have touched := clearCounters_touches s
  refine .of_touches (touched.mono (by decide))
    (lanesOk_map (fun l => { l with counts := LaneCounters.zero }) rfl (fun _ => rfl) (fun _ => .inl rfl) fun _ => rfl) id
    (fun p => ?_) (fun _ => id) rfl id
  rw [clearCounters, State.port_mapPorts]
  exact .of_same rfl rfl rfl rfl

theorem respond_evolves (code : Byte) (q : QueryHead) (s : State) : Evolves s (respond code q s) := by
  refine .ite _ (fun h => ?_) (Kept.refl s).evolves
  simp only [Bool.and_eq_true, beq_iff_eq] at h
  split
  case h_1 => exact (reply_kept _ _ _ _ _).evolves
  case h_2 => exact (answerReadCircuit_kept _ _).evolves
  case h_3 => exact (answerReadPeer_kept _ _).evolves
  case h_4 => exact (answerReadCommand_kept _ _).evolves
  case h_5 => exact (answerDrain_kept _ _).evolves
  case h_6 => exact (answerLoop_kept _ _ _ _).evolves
  case h_7 => exact (answerLoop_kept _ _ _ _).evolves
  case h_8 => exact (answerLoop_kept _ _ _ _).evolves
  case h_9 => exact ((clearCounters_kept s).trans (reply_kept _ _ _ _ _)).evolves
  case h_10 => exact (Turn.restart h.1).evolves
  case h_11 => exact (reply_kept _ _ _ _ _).evolves

/-! ### Arrivals -/

theorem markCurrentLane_kept (p : Fin 8) (L : Lane) (s : State) : Kept s (markCurrentLane p L s) :=
  .ite _ (fun _ => modPort_kept s p _ (.of_same rfl rfl rfl rfl)) (.refl _)

theorem farEndCell_kept (p : Fin 8) (L : Lane) (body : Octets) (s : State) : Kept s (farEndCell p L body s) := by
  have reported := (updateAsymmetric_kept p (tribSenderLane body) s).trans (markCurrentLane_kept p L _)
  exact .ite _ (fun _ => reported) (reported.trans (acceptCell_kept p _ _))

theorem receiveTrib_kept (L : Lane) (src : Nat) (body : Octets) (s : State) : Kept s (receiveTrib L src body s) :=
  .ite _ (fun _ => modStats_kept _ _) (.ite _ (fun _ => modStats_kept _ _) (farEndCell_kept _ _ _ _))

theorem dispatch_evolves (L : Lane) (f : Octets) (s : State) : Evolves s (dispatch L f s) := by
  refine .ite _ (fun _ => ?_) (Kept.refl s).evolves
  dsimp only
  split
  case h_1 => exact (receiveTrib_kept _ _ _ _).evolves
  case h_2 => exact (answerEcho_kept _ _ _ _ _).evolves
  case h_3 => exact (matchEcho_kept _ _ _ _).evolves
  case h_4 => exact (receiveCmd_kept _ _ _ _).evolves
  case h_5 => exact (receiveCmdAck_kept _ _ _).evolves
  case h_6 => exact respond_evolves _ _ _
  all_goals exact (Kept.refl s).evolves

theorem otherLaneCell_kept (p : Fin 8) (s : State) : Kept s (otherLaneCell p s) :=
  modPort_kept s p _ (.of_same rfl rfl rfl rfl)

theorem passWindow_evolves (L : Lane) (f : Octets) (s : State) : Evolves s (passWindow L f s) := by
  unfold passWindow
  split
  · exact (modStats_kept _ _).evolves
  · exact (modStats_kept _ _).evolves
  · exact (setDup_kept s _ _).then (dispatch_evolves _ _ _)

theorem receiveMark_kept (L : Lane) (f : Octets) (s : State) : Kept s (receiveMark L f s) := by
  refine .ite _ (fun _ => ?_) (.refl _)
  split
  · exact .refl _
  · exact peerMark_kept _ _ _ _

theorem deliver_evolves (L : Lane) (f : Octets) (s : State) : Evolves s (deliver L f s) := by
  have counted := countLane_kept s L fun c => { c with framesDelivered := bump c.framesDelivered }
  refine (counted.trans (restartAge_kept (frameSource f) _)).then ?_
  exact .ite _ (fun _ => (receiveMark_kept _ _ _).evolves)
    (.ite _ (fun _ => (otherLaneCell_kept _ _).evolves) (passWindow_evolves _ _ _))

theorem markReturn_evolves (L : Lane) (hop : Nat) (v : BitVec 32) (s : State)
    (h : s.ctl.station = .quiet ∨ s.ctl.station = .run) : Evolves s (markReturn L hop v s) := by
  have entered := pushChange_kept s (.clash L v)
  refine .ite _ (fun _ => Kept.evolves ?_) (entered.then (enterClash_evolves _ (by rw [entered.station]; exact h)))
  have returned := fun f => modMark_kept s L f
  exact .ite _ (fun _ => .ite _ (fun _ => (returned _).trans (pushChange_kept _ _)) (returned _)) (.refl _)

theorem stripFrame_evolves (L : Lane) (f : Octets) (s : State) : Evolves s (stripFrame L f s) := by
  have counted := countLane_kept s L fun c => { c with stripped := bump c.stripped }
  refine .ite _ (fun h => counted.then (markReturn_evolves _ _ _ _ ?_)) counted.evolves
  simp only [Bool.and_eq_true, Bool.or_eq_true, beq_iff_eq] at h
  exact h.2

theorem expireHop_kept (L : Lane) (s : State) : Kept s (expireHop L s) := countLane_kept _ _ _

theorem passFrame_evolves (L : Lane) (n : Nat) (f : Octets) (s : State) : Evolves s (passFrame L n f s) := by
  refine .ite _ (fun _ => .ite _ (fun _ => ?_) (deliver_evolves _ _ _))
    (Kept.ite _ (fun _ => joinTransit_kept _ _ _) (.ite _ (fun _ => expireHop_kept _ _) (.refl _))).evolves
  obtain ⟨choices, h | h⟩ := inEitherOrder_spec s (forwardFrame L f) (deliver L f)
  · rw [h]
    exact ((tieBreak_kept s choices).trans (joinTransit_kept _ _ _)).then (deliver_evolves _ _ _)
  · rw [h]
    exact ((tieBreak_kept s choices).then (deliver_evolves _ _ _)).then (joinTransit_kept _ _ _)

theorem judgeFrame_evolves (L : Lane) (f : Octets) (s : State) : Evolves s (judgeFrame L f s) := by
  unfold judgeFrame
  split
  · exact (Kept.ite _ (fun _ => joinTransit_kept _ _ _) (expireHop_kept _ _)).evolves
  · exact .ite _ (fun _ => stripFrame_evolves _ _ _) (passFrame_evolves _ _ _ _)

theorem arrive_evolves (L : Lane) (f : Octets) (s : State) : Evolves s (arrive L f s) := by
  have received := countLane_kept s L fun c => { c with framesReceived := bump c.framesReceived }
  refine .ite _ (fun _ => Kept.then ?_ (judgeFrame_evolves L f _)) (received.trans (countLane_kept _ _ _)).evolves
  exact .ite _ (fun _ => received.trans (countLane_kept _ _ _)) received

/-! ### The configuration port -/

theorem cfg_kept (s : State) (c : ConfigPort) : Kept s { s with cfg := c } := by
  refine .aside fun x hx => ?_
  cases x <;> first | rfl | exact absurd (by decide) hx

theorem qualifyHighPins_kept (s : State) : Kept s (qualifyHighPins s) := .foldl _ (fun s k => judgePin_kept k s) _ _

theorem closeFault_zero {c : Controller} {im : Image} (h : closeFault c im = 0) : c.station ≠ .noAddress := by
  intro hn
  simp [closeFault, hn] at h

theorem judgeLoadByte_evolves (b : Byte) (s : State) (h : s.closed = false) : Evolves s (judgeLoadByte b s) := by
  refine .ite _ (fun _ => .ite _ (fun hf => ?_) ?_) (Kept.evolves ?_)
  · exact ((Turn.close (closeFault_zero hf) h).evolves.then (qualifyHighPins_kept _)).then (cfg_kept _ _)
  · exact ((cfg_kept s _).trans (cfg_kept _ _)).evolves
  · split
    · exact cfg_kept _ _
    · exact (cfg_kept s _).trans (cfg_kept _ _)

/-- A data byte of a write reaches the image only before it is closed. -/
theorem writeDataByte_kept (l : LoadPointer) (b : Byte) (s : State) (h : s.closed = false) :
    Kept s (writeDataByte l b s) :=
  ⟨rfl, rfl, rfl, rfl, rfl, fun hc => (by rw [h] at hc; cases hc), rfl, fun _ => .refl _, fun _ => id, id, id, id⟩

theorem writeByte_evolves (b : Byte) (s : State) : Evolves s (writeByte b s) := by
  unfold writeByte
  split
  · exact (cfg_kept _ _).evolves
  rename_i h
  simp only [Bool.or_eq_true, not_or, Bool.not_eq_true] at h
  split
  · exact judgeLoadByte_evolves _ _ h.2
  · exact (writeDataByte_kept _ _ _ h.2).evolves

theorem busByte_evolves (b : BusByte) (s : State) : Evolves s (busByte b s) := by
  unfold busByte
  split
  · exact (cfg_kept _ _).evolves
  · exact (cfg_kept _ _).evolves
  · refine Kept.evolves (.ite _ (fun _ => .ite _ (fun _ => cfg_kept _ _) ?_) (cfg_kept _ _))
    exact (cfg_kept s _).trans (cfg_kept _ _)
  · exact writeByte_evolves _ _
  · exact Kept.evolves (.ite _ (fun _ => cfg_kept _ _) (cfg_kept _ _))

end Sys2Proof.Machine
end

section
/-! What each command does as a whole, and the invariants that follow. -/

namespace Sys2Proof.Machine

open Sys2Proof.Safety

/-- A command's outcome is a next state, reached by one stretch of kept properties with a turn at most. -/
def Develops (s : State) (r : Result) : Prop := ∃ t, r = .next t ∧ Evolves s t

theorem running_develops {s : State} {f : State → State} (h : Kept s (f s)) : Develops s (.next (s.running f)) :=
  ⟨_, rfl, (running_kept s f h).evolves⟩

theorem running_develops_turn {s : State} {f : State → State} (h : Evolves s (f s)) :
    Develops s (.next (s.running f)) := ⟨_, rfl, running_evolves s f h⟩

theorem elapseTicks_kept (s : State) (n : Nat) : Kept s (s.elapseTicks n) :=
  .aside ((elapseTicks_touches s n).mono (by decide))

theorem reachInterval_kept (s : State) : Kept s (reachInterval s) :=
  .aside ((reachInterval_touches s).mono (by decide))

theorem reachEdge_kept (p : Fin 8) (s : State) : Kept s (reachEdge p s) :=
  .aside ((reachEdge_touches p s).mono (by decide))

theorem markTimer_kept (s : State) (t : Timer) : Kept s { s with markTimer := t } := by
  refine .aside fun x hx => ?_
  cases x <;> first | rfl | exact absurd (by decide) hx

theorem echoTimer_kept (s : State) (t : Timer) : Kept s { s with echoTimer := t } := by
  refine .aside fun x hx => ?_
  cases x <;> first | rfl | exact absurd (by decide) hx

/-! ### The commands -/

theorem execEchoUnmeasured_develops (i : Fin 12) (L : Lane) (s : State) : Develops s (execEchoUnmeasured i L s) :=
  running_develops (.ite _ (fun _ => unmeasure_kept _ _ _) (.refl _))

theorem execTransmissionCompletion_develops (L : Lane) (s : State) : Develops s (execTransmissionCompletion L s) := by
  refine running_develops ?_
  split
  · exact .refl _
  · exact (elapse_kept s _).trans (complete_kept _ _)

theorem execDuplicateEntryExpiry_develops (st : BitVec 6) (s : State) :
    Develops s (execDuplicateEntryExpiry st s) := by
  refine running_develops ?_
  split
  · exact .refl _
  · exact (reach_kept s _).trans (setDup_kept _ _ _)

theorem execMarkPeriodExpiry_develops (s : State) : Develops s (execMarkPeriodExpiry s) := by
  refine running_develops ?_
  split
  · exact .refl _
  · exact ((reach_kept s _).trans (markTimer_kept _ _)).trans (originate_kept _ _ _ _ _)

theorem execEchoRound_develops (s : State) : Develops s (execEchoRound s) := by
  refine running_develops ?_
  split
  · exact .refl _
  · exact ((reach_kept s _).trans (echoTimer_kept _ _)).trans (echoRound_kept _)

theorem execPresenceTimerExpiry_develops (i : Fin 12) (L : Lane) (s : State) :
    Develops s (execPresenceTimerExpiry i L s) := by
  refine running_develops ?_
  split
  · exact .refl _
  · exact onExpiry_kept _ _ _ (loseLane_kept _ _)

theorem execLosAsserted_develops (p : Fin 8) (s : State) : Develops s (execLosAsserted p s) := by
  have low := fun f h => modPort_kept s p f h
  exact ⟨_, rfl, (Kept.ite _ (fun _ => low _ (.of_same rfl rfl rfl rfl))
    ((low _ (.of_same rfl rfl rfl rfl)).trans (loseLine_kept _ _))).evolves⟩

theorem execBitSampled_develops (p : Fin 8) (b : Bool) (s : State) : Develops s (execBitSampled p b s) := by
  have sampled := fun f h => modPort_kept s p f h
  exact running_develops (.ite _ (fun _ => sampled _ (.of_same rfl rfl rfl rfl))
    ((sampled _ (.of_same rfl rfl rfl rfl)).trans (gatherBit_kept _ _ _)))

theorem execStationCellCompletion_develops (p : Fin 8) (s : State) :
    Develops s (execStationCellCompletion p s) := by
  refine running_develops ?_
  split
  · exact ((reach_kept s _).trans (setCell_kept p _ _)).trans (completeCell_kept _ _ _ _)
  · exact .refl _
  · exact .refl _

theorem execIntervalEvent_develops (s : State) : Develops s (execIntervalEvent s) :=
  running_develops ((reachInterval_kept s).trans (.inSomeOrder _ circuitInterval_kept _ _))

theorem execRevertTimerExpiry_develops (p : Fin 8) (s : State) : Develops s (execRevertTimerExpiry p s) := by
  refine running_develops (.ite _ (fun _ => onExpiry_kept _ _ _ fun s => ?_) (.refl _))
  split
  · exact .refl _
  · exact .ite _ (fun _ => .refl _) (switchLane_kept _ _ _)

theorem execCiChange_develops (k : Fin 4) (b : Bool) (s : State) : Develops s (execCiChange k b s) := by
  have level := fun f => modCmd_kept_beside s k f
  exact ⟨_, rfl, (Kept.ite _ (fun _ => level _ rfl rfl) ((level _ rfl rfl).trans (judgePin_kept _ _))).evolves⟩

theorem execTkChange_develops (k : Fin 4) (b : Bool) (s : State) : Develops s (execTkChange k b s) := by
  have level := fun f => modCmd_kept_beside s k f
  exact ⟨_, rfl, (Kept.ite _ (fun _ => level _ rfl rfl) ((level _ rfl rfl).trans (answerCycle_kept _ _ _))).evolves⟩

theorem execRepeatTimerExpiry_develops (k : Fin 4) (s : State) : Develops s (execRepeatTimerExpiry k s) := by
  refine running_develops ?_
  split
  · exact .refl _
  · exact onExpiry_kept _ _ _ (repeatCmd_kept _)

theorem execAnswerTimerExpiry_develops (k : Fin 4) (s : State) : Develops s (execAnswerTimerExpiry k s) := by
  refine running_develops ?_
  split
  · exact .refl _
  · exact onExpiry_kept _ _ _ (expireAnswer_kept _)

theorem execPersistenceTimerExpiry_develops (k : Fin 4) (s : State) :
    Develops s (execPersistenceTimerExpiry k s) := by
  refine running_develops ?_
  split
  · exact .refl _
  · exact onExpiry_kept _ _ _ fun s =>
      (modIncoming_kept s k _ fun _ _ => by rfl).trans (endActivation_kept _ _)

theorem execHoldTimerExpiry_develops (k : Fin 4) (s : State) : Develops s (execHoldTimerExpiry k s) := by
  refine running_develops ?_
  split
  · exact .refl _
  · exact onExpiry_kept _ _ _ fun s =>
      .ite _ (fun _ => releaseToIdle_kept _ _) (modIncoming_kept s k _ fun _ _ => by rfl)

theorem execSequenceTimerExpiry_develops (k : Fin 4) (s : State) : Develops s (execSequenceTimerExpiry k s) := by
  refine running_develops ?_
  split
  · exact .refl _
  · exact onExpiry_kept _ _ _ fun s => modIncoming_kept s k _ fun _ _ => by rfl

theorem execTakenWindowExpiry_develops (k : Fin 4) (s : State) : Develops s (execTakenWindowExpiry k s) := by
  refine running_develops ?_
  split
  · exact .refl _
  split
  · exact .refl _
  · exact onExpiry_kept _ _ _ (answerCycle_kept _ _)

theorem execBlockChange_develops (b : Bool) (s : State) : Develops s (execBlockChange b s) := by
  refine ⟨_, rfl, (Kept.aside fun x hx => ?_).evolves⟩
  cases x <;> first | rfl | exact absurd (by decide) hx

theorem execQuietExpiry_develops (s : State) : Develops s (execQuietExpiry s) := by
  refine running_develops_turn (.ite _ (fun h => ?_) (Kept.refl s).evolves)
  unfold State.onExpiry
  split
  · exact (Kept.refl s).evolves
  · refine (reach_kept s _).then (enterRun_evolves _ ?_)
    simpa using h

theorem execRestart_develops (q : QueryHead) (s : State) : Develops s (execRestart q s) := by
  refine running_develops_turn (.ite _ (fun h => ?_) (Kept.refl s).evolves)
  simp only [Bool.and_eq_true, beq_iff_eq] at h
  exact (Turn.restart h.1).evolves

theorem execTxcFallingEdge_develops (p : Fin 8) (s : State) : Develops s (execTxcFallingEdge p s) :=
  running_develops ((Kept.ite _ (fun _ => .refl _) (reachEdge_kept _ _)).trans (modPort_kept _ p _ (driveBit_kept _)))

theorem query_develops (q : QueryHead) {f : State → State} (s : State) (h : Kept s (f s)) :
    Develops s (.next (s.running fun s => s.queried q f)) := running_develops (queried_kept _ _ _ h)

/-- Every command but cold reset and its release keeps the properties, with one turn of the station controller at
most. -/
theorem exec_develops (c : Instr) (s : State) (reset : c ≠ .coldReset)
    (release : ∀ straps cfga, c ≠ .resetRelease straps cfga) : Develops s (exec c s) := by
  cases c with
  | coldReset => exact absurd rfl reset
  | resetRelease straps cfga => exact absurd rfl (release straps cfga)
  | frameArrival L f => exact running_develops_turn (arrive_evolves L f s)
  | transmissionCompletion L => exact execTransmissionCompletion_develops L s
  | echoUnmeasured i L => exact execEchoUnmeasured_develops i L s
  | duplicateEntryExpiry st => exact execDuplicateEntryExpiry_develops st s
  | markPeriodExpiry => exact execMarkPeriodExpiry_develops s
  | returnTimerExpiry L => exact running_develops (onExpiry_kept _ _ _ (openLane_kept L))
  | presenceTimerExpiry i L => exact execPresenceTimerExpiry_develops i L s
  | octetReceived p o => exact running_develops (.ite _ (fun _ => .refl _) (receiveOctet_kept _ _ _))
  | losAsserted p => exact execLosAsserted_develops p s
  | losDeasserted p => exact ⟨_, rfl, (modPort_kept s p _ (.of_same rfl rfl rfl rfl)).evolves⟩
  | silenceTimerExpiry p => exact running_develops (onExpiry_kept _ _ _ (loseLine_kept p))
  | stationCellCompletion p => exact execStationCellCompletion_develops p s
  | intervalEvent => exact execIntervalEvent_develops s
  | starvation p => exact running_develops (checkStarvation_kept p s)
  | idleRunLimit p => exact running_develops (checkIdleRun_kept p s)
  | flushEnd p => exact running_develops (checkFlushEnd_kept p s)
  | trafficSwitch p => exact running_develops (checkTraffic_kept p s)
  | revertTimerExpiry p => exact execRevertTimerExpiry_develops p s
  | echoRound => exact execEchoRound_develops s
  | ciChange k b => exact execCiChange_develops k b s
  | qualificationExpiry k => exact running_develops (onExpiry_kept _ _ _ (takeQualified_kept k))
  | repeatTimerExpiry k => exact execRepeatTimerExpiry_develops k s
  | answerTimerExpiry k => exact execAnswerTimerExpiry_develops k s
  | persistenceTimerExpiry k => exact execPersistenceTimerExpiry_develops k s
  | holdTimerExpiry k => exact execHoldTimerExpiry_develops k s
  | sequenceTimerExpiry k => exact execSequenceTimerExpiry_develops k s
  | tkChange k b => exact execTkChange_develops k b s
  | takenWindowExpiry k => exact execTakenWindowExpiry_develops k s
  | blockChange b => exact execBlockChange_develops b s
  | readStation q => exact query_develops q s (reply_kept _ _ _ _ _)
  | readCircuit q => exact query_develops q s (answerReadCircuit_kept q s)
  | readPeer q => exact query_develops q s (answerReadPeer_kept q s)
  | readCommand q => exact query_develops q s (answerReadCommand_kept q s)
  | drain q => exact query_develops q s (answerDrain_kept q s)
  | setLoopLine q => exact query_develops q s (answerLoop_kept _ _ q s)
  | setLoopLocal q => exact query_develops q s (answerLoop_kept _ _ q s)
  | clearLoop q => exact query_develops q s (answerLoop_kept _ _ q s)
  | clearCounts q => exact query_develops q s ((clearCounters_kept s).trans (reply_kept _ _ _ _ _))
  | restart q => exact execRestart_develops q s
  | unknownQueryKind code q => exact running_develops_turn (respond_evolves code q s)
  | quietExpiry => exact execQuietExpiry_develops s
  | busStart => exact running_develops (cfg_kept _ _)
  | busStop => exact running_develops (cfg_kept _ _)
  | addressByte b => exact running_develops_turn (busByte_evolves _ s)
  | loadByte b => exact running_develops_turn (busByte_evolves _ s)
  | dataByte b => exact running_develops_turn (busByte_evolves _ s)
  | close => exact running_develops_turn (busByte_evolves _ s)
  | bitSampled p b => exact execBitSampled_develops p b s
  | txcFallingEdge p => exact execTxcFallingEdge_develops p s

/-! ### From commands to steps -/

/-- A property that a command keeps, and the passing of time and the choices with it, is kept by a step. -/
theorem step_keeps (P : State → Prop) (aside : ∀ s t, Touches [.clock, .tieBreak, .pending] s t → P s → P t)
    (command : ∀ c s t, P s → exec c s = .next t → P t) (s t : State) (h : P s) (hs : step s = .next t) : P t := by
  unfold step at hs
  split at hs
  · refine command _ _ t (aside s _ (fun x hx => ?_) h) hs
    cases x <;> first | rfl | exact absurd (by decide) hx
  unfold idle at hs
  split at hs
  · cases hs
    exact h
  dsimp only at hs
  split at hs
  · cases hs
    exact aside s _ ((elapse_touches s 1).mono (by decide)) h
  · refine command _ _ t (aside s _ (fun x hx => ?_) h) hs
    cases x <;> first | rfl | exact absurd (by decide) hx

/-- A property that the kept stretches, the turns, cold reset and its release keep is kept by every command. -/
theorem exec_keeps (P : State → Prop) (kept : ∀ s t, Kept s t → P s → P t) (turn : ∀ s t, Turn s t → P s → P t)
    (cold : ∀ s, P (coldReset s)) (released : ∀ s straps cfga, P (release straps cfga s)) (c : Instr) (s t : State)
    (h : P s) (hs : exec c s = .next t) : P t := by
  by_cases reset : c = .coldReset
  · subst reset
    cases hs
    exact cold s
  by_cases releasing : ∃ straps cfga, c = .resetRelease straps cfga
  · obtain ⟨straps, cfga, rfl⟩ := releasing
    cases hs
    split
    · exact released _ _ _
    · exact h
  · obtain ⟨u, hu, evolves⟩ := exec_develops c s reset fun straps cfga e => releasing ⟨straps, cfga, e⟩
    rw [hu] at hs
    cases hs
    rcases evolves with all | ⟨a, b, before, turned, after⟩
    · exact kept s _ all h
    · exact kept b _ after (turn a b turned (kept s a before h))

end Sys2Proof.Machine
end

section
/-! The invariants of a step (chapters 1, 2, 4, 6, 8 and 10): each is kept by every stretch, by the turns of the station
controller, and by cold reset and its release. -/

namespace Sys2Proof.Machine

open Sys2Proof.Safety

/-! ### Queues (O3) -/

theorem queuesOk_iff (s : State) : QueuesOk s ↔ LanesOk s ∧ ChangesOk s.changes := by
  unfold QueuesOk LanesOk ChangesOk
  rw [and_assoc]

theorem changesOk_empty : ChangesOk ChangeQueue.empty := ⟨by simp [ChangeQueue.empty], rfl⟩

theorem turn_queues (s t : State) (turn : Turn s t) (ok : QueuesOk s) : QueuesOk t := by
  rw [queuesOk_iff] at ok ⊢
  obtain ⟨lanes, changes⟩ := ok
  cases turn with
  | run => exact ⟨.of_lanes rfl lanes, changes⟩
  | restart =>
    exact ⟨lanesOk_map (fun l => { l with localQ := [], counts := LaneCounters.zero }) rfl (fun _ => rfl)
      (fun _ => .inr rfl) (fun _ => rfl) lanes, changesOk_empty⟩
  | clash =>
    exact ⟨lanesOk_map (fun l => { l with localQ := [] }) rfl (fun _ => rfl) (fun _ => .inr rfl) (fun _ => rfl) lanes,
      changes⟩
  | close =>
    exact ⟨lanesOk_map (fun l => { l with counts := LaneCounters.zero }) rfl (fun _ => rfl) (fun _ => .inl rfl)
      (fun _ => rfl) lanes, changesOk_empty⟩

theorem queuesOk_reset {s : State} (lanes : s.lanes = PerLane.both Forwarder.reset)
    (changes : s.changes = ChangeQueue.empty) : QueuesOk s := by
  have empty : ∀ L, s.forwarder L = Forwarder.reset := fun L => by simp [State.forwarder, lanes]
  rw [queuesOk_iff, changes]
  refine ⟨⟨fun L => ?_, fun L _ => ?_⟩, changesOk_empty⟩
  · simp [empty, Forwarder.reset]
  · simp [empty, Forwarder.reset]

/-- Settles O3 (R10, R14, R15, R166, R169). -/
theorem queuesKept : Obligations.QueuesKept := by
  refine step_keeps QueuesOk (fun s t h ok => ?_) (exec_keeps QueuesOk (fun s t h ok => ?_) turn_queues
    (fun _ => queuesOk_reset rfl rfl) fun _ _ _ => queuesOk_reset rfl rfl)
  · rw [queuesOk_iff] at ok ⊢
    exact ⟨.of_lanes (h.same .lanes (by decide)) ok.1, by
      rw [show t.changes = s.changes from h.same .changes (by decide)]; exact ok.2⟩
  · rw [queuesOk_iff] at ok ⊢
    exact ⟨h.lanes ok.1, h.changes ok.2⟩

/-! ### Ports: clock loops (O4) and playout buffers (O7) -/

theorem startAssembler_kept (u : Time) (q : Port) : PortKept q (startAssembler u q) := by
  unfold startAssembler
  split <;> exact .of_same rfl rfl rfl rfl

theorem engineOk_reset {q : Port} (h : q.engine = Engine.reset) : EngineOk q := by
  rw [engineOk_iff, h]
  exact ⟨bufferOk_reset, fun _ => rfl⟩

theorem startWait_kept (r : CircuitRecord) {q : Port} (h : q.enabled = true) : PortKept q (q.startWait r) :=
  ⟨fun _ => start_ok _, fun _ => engineOk_reset rfl, by rw [h]; rfl⟩

theorem clockLoopOk_reset : ClockLoopOk ClockLoop.reset := by simp [ClockLoopOk, ClockLoop.reset]

theorem closed_port_ok (r : CircuitRecord) (q : Port) : ClockLoopOk (q.closed r).clk ∧ EngineOk (q.closed r) := by
  unfold Port.closed
  split
  · exact ⟨start_ok _, engineOk_reset rfl⟩
  · exact ⟨clockLoopOk_reset, engineOk_reset rfl⟩

theorem runReady_port (s : State) (p : Fin 8) :
    (runReady s).port p = startAssembler (s.after Config.cellTicks) (s.port p) := by
  rw [runReady, State.port_mapPorts]
  rfl

theorem port_mapCmds (s : State) (f : Fin 4 → Command → Command) (p : Fin 8) : (s.mapCmds f).port p = s.port p :=
  State.port_of_ports rfl p

theorem warmRestart_port (s : State) (p : Fin 8) :
    (warmRestart s).port p = if (s.port p).enabled then (s.port p).startWait (s.setting p) else s.port p := by
  rw [warmRestart, port_mapCmds, State.port_mapPorts]
  rfl

theorem closeReady_port (s : State) (p : Fin 8) :
    (closeReady s).port p = (s.port p).closed (clampImage s.image).circuits[p] := by
  rw [closeReady, port_mapCmds, State.port_mapPorts]
  rfl

/-- R82: only a CLOSE enables circuits. -/
theorem turn_ports {s t : State} (turn : Turn s t) (p : Fin 8) :
    PortKept (s.port p) (t.port p) ∨ (ClockLoopOk (t.port p).clk ∧ EngineOk (t.port p) ∧ s.closed = false) := by
  cases turn with
  | run =>
    left
    rw [runReady_port]
    exact startAssembler_kept _ _
  | restart =>
    left
    rw [warmRestart_port]
    split
    · exact startWait_kept _ ‹_›
    · exact .refl _
  | clash => exact .inl (PortKept.of_ports rfl p)
  | close _ opened =>
    right
    rw [closeReady_port]
    exact ⟨(closed_port_ok _ _).1, (closed_port_ok _ _).2, opened⟩

theorem cold_port (s : State) (p : Fin 8) :
    (coldReset s).port p = { Port.reset with rx := { Receiver.reset with los := (s.port p).rx.los } } := by
  simp [coldReset, State.port]

/-- Settles O4 (R104, R109, R110). -/
theorem clockLoopsKept : Obligations.ClockLoopsKept := by
  refine step_keeps ClockLoopsOk (fun s t h ok p => ?_) (exec_keeps ClockLoopsOk (fun s t h ok p => (h.ports p).clk (ok p))
    (fun s t turn ok p => ?_) (fun s p => ?_) fun s _ _ p => ?_)
  · rw [State.port_of_ports (h.same .ports (by decide))]
    exact ok p
  · rcases turn_ports turn p with h | h
    · exact h.clk (ok p)
    · exact h.1
  · rw [cold_port]
    exact clockLoopOk_reset
  · exact (congrArg (fun q : Port => ClockLoopOk q.clk) (cold_port s p)).mpr clockLoopOk_reset

/-- Settles O7 (R63, R64). -/
theorem enginesKept : Obligations.EnginesKept := by
  refine step_keeps EnginesOk (fun s t h ok p => ?_) (exec_keeps EnginesOk (fun s t h ok p => (h.ports p).engine (ok p))
    (fun s t turn ok p => ?_) (fun s p => ?_) fun s _ _ p => ?_)
  · rw [State.port_of_ports (h.same .ports (by decide))]
    exact ok p
  · rcases turn_ports turn p with h | h
    · exact h.engine (ok p)
    · exact h.2.1
  · rw [cold_port]
    exact engineOk_reset rfl
  · exact (congrArg EngineOk (cold_port s p)).mpr (engineOk_reset rfl)

/-! ### Command outputs (O5) -/

theorem outputFollows_released {c : Command} (co : c.co = false) (h : ∀ r, c.incoming = some r → r.state = .idle) :
    OutputFollows c := by
  unfold OutputFollows
  rw [co]
  refine ⟨fun h => (by cases h), fun ⟨r, hr, state⟩ => ?_⟩
  rw [h r hr] at state
  simp at state

theorem restarted_follows (c : Command) : OutputFollows c.restarted := by
  refine outputFollows_released rfl fun r hr => ?_
  cases hi : c.incoming with
  | none => simp [Command.restarted, hi] at hr
  | some x =>
    simp only [Command.restarted, hi, Option.map_some, Option.some.injEq] at hr
    subst hr
    rfl

theorem closed_follows (r : CommandRecord) (c : Command) : OutputFollows (c.closed r) := by
  refine outputFollows_released rfl fun x hx => ?_
  unfold Command.closed at hx
  dsimp only at hx
  split at hx
  · cases hx
    rfl
  · cases hx

theorem turn_outputs (s t : State) (turn : Turn s t) (ok : OutputsFollow s) : OutputsFollow t := by
  intro k
  cases turn with
  | run => exact ok k
  | restart =>
    rw [warmRestart, State.cmd_mapCmds]
    exact restarted_follows _
  | clash =>
    rw [clashReady, State.cmd_mapCmds]
    exact restarted_follows _
  | close =>
    rw [closeReady, State.cmd_mapCmds]
    exact closed_follows _ _

theorem cold_cmd (s : State) (k : Fin 4) :
    (coldReset s).cmd k = { Command.reset with ci := (s.cmd k).ci, tk := (s.cmd k).tk } := by
  simp [coldReset, State.cmd]

theorem cold_follows (s : State) (k : Fin 4) : OutputFollows ((coldReset s).cmd k) := by
  rw [cold_cmd]
  exact outputFollows_released rfl fun r hr => by cases hr

/-- Settles O5 (R151). -/
theorem outputsKept : Obligations.OutputsKept := by
  refine step_keeps OutputsFollow (fun s t h ok k => ?_) (exec_keeps OutputsFollow
    (fun s t h ok k => h.outputs k (ok k)) turn_outputs cold_follows fun s _ _ => cold_follows s)
  rw [State.cmd_of_cmds (h.same .cmds (by decide))]
  exact ok k

/-! ### Peer records (O6) -/

theorem roles_length {s t : State} (h : roles t = roles s) : t.peers.length = s.peers.length := by
  simpa [roles] using congrArg List.length h

theorem peerLaneOk_reset : PeerLaneOk PeerLane.reset := by simp [PeerLaneOk, PeerLane.reset]

theorem addRole_length (st : Nat) (c : BitVec 8) (k : BitVec 4) : ∀ l : List Peer,
    (addRole st c k l).length ≤ l.length + 1
  | [] => by simp [addRole]
  | r :: l => by
    unfold addRole
    split
    · simp
    · simpa using addRole_length st c k l

theorem addRole_lanes (st : Nat) (c : BitVec 8) (k : BitVec 4) : ∀ l : List Peer,
    (∀ r ∈ l, r.lanes = PerLane.both PeerLane.reset) → ∀ r ∈ addRole st c k l, r.lanes = PerLane.both PeerLane.reset
  | [], _, r, hr => by
    simp only [addRole, List.mem_singleton] at hr
    rw [hr]
  | x :: l, h, r, hr => by
    unfold addRole at hr
    split at hr
    · rcases List.mem_cons.1 hr with rfl | hr
      · exact h x (by simp)
      · exact h r (by simp [hr])
    · rcases List.mem_cons.1 hr with rfl | hr
      · exact h r (by simp)
      · exact addRole_lanes st c k l (fun y hy => h y (by simp [hy])) r hr

theorem foldl_addRole {α : Type} (st : α → Nat) (c : α → BitVec 8) (k : α → BitVec 4) : ∀ (l : List α) (t : List Peer),
    (∀ r ∈ t, r.lanes = PerLane.both PeerLane.reset) →
    let u := l.foldl (fun t a => addRole (st a) (c a) (k a) t) t
    u.length ≤ t.length + l.length ∧ ∀ r ∈ u, r.lanes = PerLane.both PeerLane.reset
  | [], t, h => ⟨by simp, h⟩
  | a :: l, t, h => by
    obtain ⟨short, lanes⟩ := foldl_addRole st c k l (addRole (st a) (c a) (k a) t) (addRole_lanes _ _ _ t h)
    have one := addRole_length (st a) (c a) (k a) t
    exact ⟨by simp only [List.foldl_cons, List.length_cons]; omega, lanes⟩

/-- R36: eight circuits and four commands name at most twelve stations. -/
theorem buildPeers_fresh (im : Image) :
    (buildPeers im).length ≤ 12 ∧ ∀ r ∈ buildPeers im, r.lanes = PerLane.both PeerLane.reset := by
  obtain ⟨circuits, fresh⟩ := foldl_addRole (fun p => recFarStation im.circuits[p]) (fun p => (1 : BitVec 8) <<< p.val)
    (fun _ => 0) im.enabledPorts [] (by simp)
  obtain ⟨commands, all⟩ := foldl_addRole (fun k => cmdFarStation im.commands[k]) (fun _ => 0)
    (fun k => (1 : BitVec 4) <<< k.val) im.enabledCommands _ fresh
  have ports : im.enabledPorts.length ≤ 8 := List.length_filter_le _ _
  have cmds : im.enabledCommands.length ≤ 4 := List.length_filter_le _ _
  refine ⟨?_, all⟩
  have total := commands.trans (Nat.add_le_add_right circuits _)
  simp only [List.length_nil] at total
  exact total.trans (by omega)

theorem peersOk_of_fresh {s : State} (short : s.peers.length ≤ 12)
    (fresh : ∀ r ∈ s.peers, r.lanes = PerLane.both PeerLane.reset) : PeersOk s :=
  ⟨short, fun r hr L => by rw [fresh r hr, PerLane.get_both]; exact peerLaneOk_reset⟩

theorem turn_peers (s t : State) (turn : Turn s t) (ok : PeersOk s) : PeersOk t := by
  cases turn with
  | run => exact ok
  | restart =>
    refine peersOk_of_fresh ?_ fun r hr => ?_
    · exact (List.length_map Peer.cleared).trans_le ok.1
    · obtain ⟨x, -, rfl⟩ := List.mem_map.1 (show r ∈ s.peers.map Peer.cleared from hr)
      rfl
  | clash => exact ok
  | close => exact peersOk_of_fresh (buildPeers_fresh _).1 (buildPeers_fresh _).2

theorem peersOk_empty {s : State} (h : s.peers = []) : PeersOk s := peersOk_of_fresh (by simp [h]) (by simp [h])

/-- Settles O6 (R37, R122, R127, R128). -/
theorem peersKept : Obligations.PeersKept := by
  refine step_keeps PeersOk (fun s t h ok => ?_) (exec_keeps PeersOk
    (fun s t h ok => ⟨(roles_length h.roles).trans_le ok.1, h.peers ok.2⟩) turn_peers
    (fun _ => peersOk_empty rfl) fun _ _ _ => peersOk_empty rfl)
  rw [PeersOk, show t.peers = s.peers from h.same .peers (by decide)]
  exact ok

/-! ### The station (O8, O9) -/

theorem stationOk_of_same {s t : State} (station : t.ctl.station = s.ctl.station) (number : t.ctl.number = s.ctl.number)
    (quiet : t.ctl.quiet = s.ctl.quiet) (ok : StationOk s) : StationOk t := by
  unfold StationOk
  rw [station, number, quiet]
  exact ok

theorem turn_station (s t : State) (turn : Turn s t) (ok : StationOk s) : StationOk t := by
  obtain ⟨number, range, quiet⟩ := ok
  cases turn with
  | run h => exact ⟨⟨fun n => (by rw [number.1 n] at h; cases h), fun n => (by cases n)⟩, range, by simp [runReady]⟩
  | restart h => exact ⟨⟨fun n => (by rw [number.1 n] at h; cases h), fun n => (by cases n)⟩, range,
      by simp [warmRestart, Controller.enterQuiet]⟩
  | clash h =>
    refine ⟨⟨fun n => ?_, fun n => (by cases n)⟩, range, by simp [clashReady]⟩
    rw [number.1 n] at h
    simp at h
  | close h =>
    exact ⟨⟨fun n => absurd (number.1 n) h, fun n => (by cases n)⟩, range, by simp [closeReady, Controller.enterQuiet]⟩

theorem release_station (s : State) (straps : BitVec 6) (cfga : Bool) : StationOk (release straps cfga s) := by
  have ctl : (release straps cfga s).ctl =
    ⟨if (strapNumber straps).isSome then .load else .noAddress, strapNumber straps, none, 0⟩ := rfl
  unfold StationOk
  rw [ctl]
  by_cases valid : 1 ≤ straps.toNat ∧ straps.toNat ≤ 62
  · simp [strapNumber, valid]
  · simp [strapNumber, valid]

/-- Settles O8 (R172, R174, R175, R177). -/
theorem stationKept : Obligations.StationKept := by
  refine step_keeps StationOk (fun s t h => ?_) (exec_keeps StationOk
    (fun s t h => stationOk_of_same h.station h.number h.quiet) turn_station
    (fun s => ?_) release_station)
  · have ctl : t.ctl = s.ctl := h.same .ctl (by decide)
    exact stationOk_of_same (by rw [ctl]) (by rw [ctl]) (by rw [ctl])
  · exact ⟨⟨fun _ => rfl, fun _ => rfl⟩, fun n h => (by cases h), by simp [coldReset, State.reset, Controller.reset]⟩

theorem mayFollow_refl (x : StationState) : MayFollow x x = true := by cases x <;> rfl

/-- R174: before the image is closed a station with a number stands in LOAD. -/
theorem load_of_opened {s : State} (h : s.ctl.station ≠ .noAddress) (opened : s.closed = false) :
    s.ctl.station = .load := by
  cases hs : s.ctl.station <;> simp [State.closed, hs] at h opened ⊢

theorem turn_mayFollow {s t : State} (turn : Turn s t) :
    MayFollow s.ctl.station t.ctl.station = true ∧ t.ctl.number = s.ctl.number := by
  cases turn with
  | run h => exact ⟨by rw [h]; rfl, rfl⟩
  | restart h => exact ⟨by rw [h]; rfl, rfl⟩
  | clash h => exact ⟨by rcases h with h | h <;> (rw [h]; rfl), rfl⟩
  | close h opened => exact ⟨by rw [load_of_opened h opened]; rfl, rfl⟩

/-- Settles O9 (R172 to R177): a command takes one turn at most. -/
theorem stationTransitions : Obligations.StationTransitions := by
  intro c s t _ reset release hs
  obtain ⟨u, hu, evolves⟩ := exec_develops c s reset release
  rw [hu] at hs
  cases hs
  rcases evolves with all | ⟨a, b, before, turn, after⟩
  · exact ⟨by rw [all.station]; exact mayFollow_refl _, all.number⟩
  · obtain ⟨follows, number⟩ := turn_mayFollow turn
    rw [after.station, after.number, ← before.station, ← before.number]
    exact ⟨follows, number⟩

/-! ### The closed image (O11) -/

theorem turn_fixed {s t : State} (turn : Turn s t) (closed : s.closed = true) :
    t.closed = true ∧ t.image = s.image ∧ roles t = roles s ∧ ∀ p, (t.port p).enabled = (s.port p).enabled := by
  have enabled : ∀ p, (t.port p).enabled = (s.port p).enabled := fun p => by
    rcases turn_ports turn p with h | h
    · exact h.enabled
    · rw [closed] at h
      cases h.2.2
  cases turn with
  | run h => exact ⟨rfl, rfl, rfl, enabled⟩
  | restart h => exact ⟨rfl, rfl, List.map_map, enabled⟩
  | clash h => exact ⟨rfl, rfl, rfl, enabled⟩
  | close _ opened =>
    rw [closed] at opened
    cases opened

/-- Settles O11 (R36, R82, R115, R135, R178). -/
theorem imageFixedOnceClosed : Obligations.ImageFixedOnceClosed := by
  intro c s t closed high reset hs
  by_cases releasing : ∃ straps cfga, c = .resetRelease straps cfga
  · obtain ⟨straps, cfga, rfl⟩ := releasing
    have same : exec (.resetRelease straps cfga) s = .next s := by
      show execResetRelease straps cfga s = _
      simp [execResetRelease, high]
    rw [same] at hs
    cases hs
    exact ⟨rfl, rfl, fun _ => rfl⟩
  obtain ⟨u, hu, evolves⟩ := exec_develops c s reset fun straps cfga e => releasing ⟨straps, cfga, e⟩
  rw [hu] at hs
  cases hs
  rcases evolves with all | ⟨a, b, before, turn, after⟩
  · exact ⟨all.image closed, all.roles, fun p => (all.ports p).enabled⟩
  · obtain ⟨bClosed, image, roles, enabled⟩ := turn_fixed turn (before.closed.trans closed)
    exact ⟨((after.image bClosed).trans image).trans (before.image closed), (after.roles.trans roles).trans before.roles,
      fun p => ((after.ports p).enabled.trans (enabled p)).trans (before.ports p).enabled⟩

/-! ### The queue of commands (O2) and cold reset (O1, O10) -/

theorem turn_pending {s t : State} (turn : Turn s t) : t.pending = s.pending := by cases turn <;> rfl

/-- Settles O2. -/
theorem execKeepsQueue : Obligations.ExecKeepsQueue := by
  intro c s
  by_cases reset : c = .coldReset
  · subst reset
    exact ⟨_, rfl, rfl⟩
  by_cases releasing : ∃ straps cfga, c = .resetRelease straps cfga
  · obtain ⟨straps, cfga, rfl⟩ := releasing
    refine ⟨_, rfl, ?_⟩
    split <;> rfl
  · obtain ⟨t, ht, evolves⟩ := exec_develops c s reset fun straps cfga e => releasing ⟨straps, cfga, e⟩
    refine ⟨t, ht, ?_⟩
    rcases evolves with all | ⟨a, b, before, turn, after⟩
    · exact all.pending
    · exact (after.pending.trans (turn_pending turn)).trans before.pending

/-- Settles O1. -/
theorem stepRunsFrontCommand : Obligations.StepRunsFrontCommand := by
  intro c rest s waiting
  unfold step
  rw [waiting]

theorem reset_port (p : Fin 8) : State.reset.port p = Port.reset := by simp [State.reset, State.port]

/-- Settles O10. -/
theorem propertiesHoldAtReset : Obligations.PropertiesHoldAtReset := by
  refine ⟨queuesOk_reset rfl rfl, fun p => ?_, fun k => ?_, peersOk_empty rfl, fun p => ?_, ?_⟩
  · rw [reset_port]
    exact clockLoopOk_reset
  · have released : State.reset.cmd k = Command.reset := by simp [State.reset, State.cmd]
    rw [released]
    exact outputFollows_released rfl fun r hr => by cases hr
  · rw [reset_port]
    exact engineOk_reset rfl
  · exact ⟨⟨fun _ => rfl, fun _ => rfl⟩, fun n h => (by cases h), by simp [State.reset, Controller.reset]⟩

theorem coldReset_values (s : State) : ColdValues s (coldReset s) := by
  have cold := cold_port s
  refine ⟨rfl, rfl, rfl, fun L => by cases L <;> exact ⟨rfl, rfl⟩, fun i => ?_, rfl, rfl, rfl, rfl, fun p => ?_,
    cold_cmd s, rfl, rfl, rfl, rfl, rfl, rfl, rfl, rfl⟩
  · simp [coldReset, State.reset]
  · rw [cold]
    exact ⟨rfl, rfl, rfl, rfl, rfl, rfl, rfl, fun i => by simp [Port.reset, Engine.reset], rfl, rfl, rfl⟩

/-- Settles O12 (R19, R171, R172 and the values of cold reset). -/
theorem coldResetAndRelease : Obligations.ColdResetAndRelease := by
  refine ⟨fun s => ⟨coldReset s, rfl, coldReset_values s, rfl⟩, fun s straps cfga low => ?_⟩
  refine ⟨release straps cfga s, ?_, coldReset_values s, rfl, rfl, ?_⟩
  · show execResetRelease straps cfga s = _
    simp [execResetRelease, low]
  · have number : (release straps cfga s).ctl.number = strapNumber straps := rfl
    have station : (release straps cfga s).ctl.station =
      if (strapNumber straps).isSome then .load else .noAddress := rfl
    rw [number, station]
    unfold strapNumber
    split <;> exact ⟨rfl, rfl⟩

end Sys2Proof.Machine
end

section
/-! Cells accepted, taken and limited (chapters 4 and 5): the acceptance by circuit state, the octets taken at the play
position, and the limits of a circuit. -/

namespace Sys2Proof.Machine

open Sys2Proof.Safety

/-! ### A command with RSTn high, and a timer that has run down -/

theorem running_high {s : State} (h : s.rstLow = false) (f : State → State) : s.running f = f s := by
  simp [State.running, h]

theorem onExpiry_due {s : State} {timer : Timer} {u : Time} (h : timer = some u) (due : expired s.now u = true)
    (f : State → State) : s.onExpiry timer f = f s := by
  rw [h, State.onExpiry, reach_expired due]

/-! ### The acceptance of a cell (O33) -/

theorem acceptCell_wait {p : Fin 8} {s : State} (c : HeldCell) (h : (s.port p).circuit.state = .wait) :
    acceptCell p c s = toFlush p (s.countPort p fun n => { n with flushedCells := bump n.flushedCells }) := by
  simp only [acceptCell, h]

theorem acceptCell_flush {p : Fin 8} {s : State} (c : HeldCell) (h : (s.port p).circuit.state = .flush) :
    acceptCell p c s = s.countPort p fun n => { n with flushedCells := bump n.flushedCells } := by
  simp only [acceptCell, h]

theorem acceptCell_anchors {p : Fin 8} {s : State} (c : HeldCell) (h : (s.port p).circuit.state = .prefill)
    (unpositioned : (s.port p).engine.position = none) :
    acceptCell p c s = s.modPort p fun q =>
      { q with engine := { q.engine.store c with position := some ⟨c.count, 0⟩ }
               counts := { q.counts with cellsAccepted := bump q.counts.cellsAccepted } } := by
  have verdict : judgeCell (s.port p).engine c.count = .anchors := by simp only [judgeCell, unpositioned]
  rw [acceptCell_eq_sortCell c (.inl h), sortCell]
  simp only [verdict]

theorem slip_changes (p : Fin 8) (s : State) :
    (slip p s).changes = withEntry s.now (.circuitState p .flush) s.changes := by
  by_cases play : (s.port p).circuit.state = .play <;> simp [slip, play, toFlush_changes, saveHeld, State.now]

/-- Settles O33 (R62, R65, R66, R68). -/
theorem cellAccepted : Obligations.CellAccepted := by
  intro p c s q empty flushed t
  have onPort : OnPort p s t := acceptCell_onPort p c s
  refine ⟨fun wait => ?_, fun flush => ?_, fun prefill unpositioned => ?_, ?_⟩
  · have eq : t = _ := acceptCell_wait c wait
    refine ⟨?_, ?_, onPort.others, onPort.touches⟩
    · rw [eq, toFlush_port, State.countPort, State.port_modPort_same]
      rfl
    · rw [eq, toFlush_changes]
      rfl
  · have eq : t = _ := acceptCell_flush c flush
    rw [eq]
    exact ⟨State.port_modPort_same .., (countPort_onPort s p _).others, countPort_touches s p _⟩
  · have eq : t = _ := acceptCell_anchors c prefill unpositioned
    rw [eq]
    exact ⟨State.port_modPort_same .., (modPort_onPort s p _).others, modPort_touches s p _⟩
  · exact ⟨slip_port p s, slip_changes p s, (slip_onPort p s).others, (slip_onPort p s).touches⟩

/-! ### The limits of a circuit (O34) -/

section
variable {p : Fin 8} {s : State}

theorem checkStarvation_starved (play : (s.port p).circuit.state = .play)
    (limit : recStarvation (s.setting p) ≤ (s.port p).engine.starvedRun) :
    checkStarvation p s = toWait p (saveHeld p (s.countPort p fun c => { c with starvations := bump c.starvations })) := by
  rw [checkStarvation, if_pos (by simp [play, limit])]

theorem checkStarvation_fed
    (h : (s.port p).circuit.state = .play → (s.port p).engine.starvedRun < recStarvation (s.setting p)) :
    checkStarvation p s = s := by
  refine if_neg fun starved => ?_
  simp only [Bool.and_eq_true, beq_iff_eq, decide_eq_true_eq] at starved
  have := h starved.1
  omega

theorem checkIdleRun_limit (prefill : (s.port p).circuit.state = .prefill)
    (limit : recStarvation (s.setting p) ≤ (s.port p).engine.idleRun) : checkIdleRun p s = toWait p s := by
  rw [checkIdleRun, if_pos (by simp [prefill, limit])]

theorem checkIdleRun_below (h : (s.port p).engine.idleRun < recStarvation (s.setting p)) : checkIdleRun p s = s := by
  refine if_neg fun idle => ?_
  simp only [Bool.and_eq_true, decide_eq_true_eq] at idle
  omega

theorem checkFlushEnd_limit (flush : (s.port p).circuit.state = .flush)
    (limit : recFlush (s.setting p) ≤ (s.port p).circuit.flushCount) :
    checkFlushEnd p s =
      (s.modPort p fun q => { q with circuit := { q.circuit with state := .prefill, flushCount := 0 } }).pushChange
        (.circuitState p .prefill) := by
  rw [checkFlushEnd, if_pos (by simp [flush, limit])]

theorem checkFlushEnd_below (h : (s.port p).circuit.flushCount < recFlush (s.setting p)) : checkFlushEnd p s = s := by
  refine if_neg fun flushed => ?_
  simp only [Bool.and_eq_true, decide_eq_true_eq] at flushed
  omega

end

/-- Settles O34 (R65, R74, R76, R84 to R88). -/
theorem circuitLimits : Obligations.CircuitLimits := by
  intro p s high q r empty
  refine ⟨fun play limit => ?_, fun prefill limit => ?_, fun flush limit => ?_⟩
  · refine ⟨checkStarvation p s, congrArg _ (running_high high _), ?_⟩
    have onPort := checkStarvation_onPort p s
    refine ⟨?_, ?_, onPort.others, onPort.touches⟩
    · rw [checkStarvation_starved play limit, toWait_port, saveHeld, State.port_modPort_same, State.countPort,
        State.port_modPort_same]
      rfl
    · rw [checkStarvation_starved play limit, toWait_changes]
      rfl
  · refine ⟨checkIdleRun p s, congrArg _ (running_high high _), ?_⟩
    have onPort := checkIdleRun_onPort p s
    refine ⟨?_, ?_, onPort.others, onPort.touches⟩
    · rw [checkIdleRun_limit prefill limit, toWait_port]
      rfl
    · rw [checkIdleRun_limit prefill limit, toWait_changes]
  · refine ⟨checkFlushEnd p s, congrArg _ (running_high high _), ?_⟩
    have onPort := checkFlushEnd_onPort p s
    refine ⟨?_, ?_, onPort.others, onPort.touches⟩
    · rw [checkFlushEnd_limit flush limit, State.pushChange_port, State.port_modPort_same]
    · rw [checkFlushEnd_limit flush limit, pushChange_changes]
      rfl

/-! ### Octets taken and the fill figure (O31) -/

theorem takeOctet_positioned {r : CircuitRecord} {t : Take} {pos : Position} (h : t.engine.position = some pos) :
    takeOctet r t =
      { engine := t.engine.pass (recN r) pos
        counts := enterCount pos (t.engine.cellOf pos.count) t.counts
        octets := t.octets ++ [octetAt (recFillOctet r) pos (t.engine.cellOf pos.count)]
        fromCell := t.fromCell || (t.engine.cellOf pos.count).isSome } := by
  unfold takeOctet
  rw [h]

theorem cellOf_count {e : Engine} {c : BitVec 16} {h : HeldCell} (held : e.cellOf c = some h) : h.count = c := by
  unfold Engine.cellOf at held
  split at held
  · cases held
  · split at held
    · cases held
      assumption
    · cases held

/-- R71: a cell that leaves takes no other cell's slot with it: two counts share a slot only when the slot does not hold
the other. -/
theorem cellOf_leave (e : Engine) (left c : BitVec 16) (held : (e.cellOf left).isSome = true) :
    ({ e with buffer := e.buffer.set (slotOf left) none } : Engine).cellOf c =
      if c = left then none else e.cellOf c := by
  obtain ⟨h, inSlot, count⟩ := (e.cellOf_isSome_iff left).1 held
  unfold Engine.cellOf
  dsimp only
  rw [getElem_set_slot]
  by_cases sameSlot : slotOf c = slotOf left
  · rw [if_pos sameSlot]
    by_cases same : c = left
    · rw [if_pos same]
    · rw [if_neg same]
      have other : e.buffer[slotOf c] = some h := by rw [← inSlot]; congr 1
      rw [other]
      simp [count, Ne.symm same]
  · rw [if_neg sameSlot, if_neg fun same => sameSlot (by rw [same])]

theorem pass_cellOf (n : Nat) (pos : Position) (e : Engine) (inside : pos.offset < n) (c : BitVec 16) :
    (e.pass n pos).cellOf c = if pos.offset + 1 = n ∧ c = pos.count then none else e.cellOf c := by
  have only : (e.pass n pos).cellOf c = ({ e with buffer := (e.pass n pos).buffer } : Engine).cellOf c := rfl
  rw [only]
  unfold Engine.pass
  dsimp only
  by_cases last : pos.offset + 1 = n
  · rw [if_neg (by omega)]
    by_cases held : (e.cellOf pos.count).isSome = true
    · rw [if_pos held, cellOf_leave e _ c held]
      simp [last]
    · rw [if_neg held]
      by_cases same : c = pos.count
      · rw [if_pos ⟨last, same⟩, same]
        simpa using held
      · rw [if_neg fun h => same h.2]
  · rw [if_pos (by omega), if_neg fun h => last h.1]

/-- The step of `spanHeld` over one slot. -/
def spanStep (start : BitVec 16) (m : Nat) (h : Option HeldCell) : Nat :=
  match h with
  | none => m
  | some c => max m (((c.count - start).toNat + 1) % 65536)

theorem spanHeld_eq_foldl (start : BitVec 16) (e : Engine) :
    spanHeld start e = e.buffer.toList.foldl (spanStep start) 0 := rfl

/-- Over slots within the window the fold is the greatest distance and one, or the value it began with. -/
theorem foldl_spanStep (start : BitVec 16) : ∀ (l : List (Option HeldCell)) (m : Nat),
    (∀ c, some c ∈ l → (c.count - start).toNat ≤ 15) →
    m ≤ l.foldl (spanStep start) m ∧ (∀ c, some c ∈ l → (c.count - start).toNat + 1 ≤ l.foldl (spanStep start) m) ∧
      (l.foldl (spanStep start) m = m ∨ ∃ c, some c ∈ l ∧ l.foldl (spanStep start) m = (c.count - start).toNat + 1)
  | [], m, _ => ⟨le_rfl, by simp, .inl rfl⟩
  | none :: l, m, near => by
    obtain ⟨least, all, which⟩ := foldl_spanStep start l m fun c hc => near c (by simp [hc])
    refine ⟨least, fun c hc => all c (by simpa using hc), which.imp_right fun ⟨c, hc, e⟩ => ⟨c, by simp [hc], e⟩⟩
  | some x :: l, m, near => by
    have nearX := near x (by simp)
    have step : spanStep start m (some x) = max m ((x.count - start).toNat + 1) := by
      simp only [spanStep]
      rw [Nat.mod_eq_of_lt (by omega)]
    obtain ⟨least, all, which⟩ := foldl_spanStep start l (max m ((x.count - start).toNat + 1))
      fun c hc => near c (by simp [hc])
    rw [List.foldl_cons, step]
    refine ⟨by omega, fun c hc => ?_, ?_⟩
    · rcases List.mem_cons.1 hc with same | hc
      · cases same
        omega
      · exact all c hc
    · rcases which with same | ⟨c, hc, e⟩
      · rcases Nat.le_total m ((x.count - start).toNat + 1) with h | h
        · exact .inr ⟨x, by simp, by rw [same, Nat.max_eq_right h]⟩
        · exact .inl (by rw [same, Nat.max_eq_left h])
      · exact .inr ⟨c, by simp [hc], e⟩

theorem mem_buffer {e : Engine} {c : Option HeldCell} : c ∈ e.buffer.toList ↔ ∃ i : Fin 16, e.buffer[i] = c := by
  simp only [Vector.mem_toList_iff, Vector.mem_iff_getElem, Fin.getElem_fin]
  exact ⟨fun ⟨i, hi, h⟩ => ⟨⟨i, hi⟩, h⟩, fun ⟨i, h⟩ => ⟨i.val, i.isLt, h⟩⟩

theorem spanHeld_empty (start : BitVec 16) (e : Engine) (empty : ∀ i : Fin 16, e.buffer[i] = none) :
    spanHeld start e = 0 := by
  obtain ⟨-, -, which⟩ := foldl_spanStep start e.buffer.toList 0 fun c hc => by
    obtain ⟨i, hi⟩ := mem_buffer.1 hc
    rw [empty i] at hi
    cases hi
  rcases which with h | ⟨c, hc, -⟩
  · exact h
  · obtain ⟨i, hi⟩ := mem_buffer.1 hc
    rw [empty i] at hi
    cases hi

/-- R78: the farthest held cell of a buffer in order. -/
theorem spanHeld_farthest (start : BitVec 16) (e : Engine) (held : ∃ i : Fin 16, e.buffer[i] ≠ none)
    (near : ∀ i : Fin 16, ∀ h, e.buffer[i] = some h → (h.count - start).toNat ≤ 15) :
    ∃ i : Fin 16, ∃ far, e.buffer[i] = some far ∧
      (∀ j : Fin 16, ∀ h, e.buffer[j] = some h → (h.count - start).toNat ≤ (far.count - start).toNat) ∧
      spanHeld start e = (far.count - start).toNat + 1 := by
  obtain ⟨-, all, which⟩ := foldl_spanStep start e.buffer.toList 0 fun c hc => by
    obtain ⟨i, hi⟩ := mem_buffer.1 hc
    exact near i c hi
  rw [← spanHeld_eq_foldl] at all which
  have reaches : ∀ j : Fin 16, ∀ h, e.buffer[j] = some h → (h.count - start).toNat + 1 ≤ spanHeld start e :=
    fun j h hj => all h (mem_buffer.2 ⟨j, hj⟩)
  rcases which with zero | ⟨far, hf, e'⟩
  · obtain ⟨i, hi⟩ := held
    obtain ⟨h, hh⟩ := Option.ne_none_iff_exists'.1 hi
    have := reaches i h hh
    omega
  · obtain ⟨i, hi⟩ := mem_buffer.1 hf
    exact ⟨i, far, hi, fun j h hj => by have := reaches j h hj; omega, e'⟩

/-- Settles O31 (R71, R72, R78). -/
theorem takeAndFill : Obligations.TakeAndFill := by
  refine ⟨fun r n t => ⟨rfl, rfl⟩, fun r t pos positioned inside => ?_, fun n e => ⟨fun h => ?_, fun pos h empty => ?_,
    fun pos h held near => ?_⟩⟩
  · intro cell u
    have eq : u = _ := takeOctet_positioned positioned
    rw [eq]
    refine ⟨?_, rfl, ?_, pass_cellOf _ _ _ inside, ?_⟩
    · show t.octets ++ [octetAt (recFillOctet r) pos cell] = _
      cases cell <;> rfl
    · show some (pos.advance (recN r)) = _
      by_cases last : pos.offset + 1 = recN r
      · rw [Position.advance, if_neg (by omega), if_pos last]
      · rw [Position.advance, if_pos (by omega), if_neg last]
    · show enterCount pos cell t.counts = _
      unfold enterCount
      by_cases start : pos.offset = 0
      · exact (if_pos start).trans (if_neg (not_not.2 start)).symm
      · exact (if_neg start).trans (if_pos start).symm
  · unfold Engine.measure
    rw [h]
  · simp [Engine.measure, h, spanHeld_empty _ _ empty]
  · obtain ⟨i, far, inSlot, farthest, span⟩ := spanHeld_farthest pos.count e held near
    have figure : e.measure n = ((far.count - pos.count).toNat + 1) * n - pos.offset := by
      simp [Engine.measure, h, span]
    refine ⟨⟨i, far, inSlot, farthest, figure⟩, ?_⟩
    rw [figure]
    have bound : ((far.count - pos.count).toNat + 1) * n ≤ 16 * n :=
      Nat.mul_le_mul_right n (by have := near i far inSlot; omega)
    omega

end Sys2Proof.Machine
end

section
/-! Lane selection, far-end cells and the delay figure (sections 4.1, 5.3, 5.4 and 7.4). -/

namespace Sys2Proof.Machine

open Sys2Proof.Safety

/-! ### A port changed twice -/

theorem modPort_modPort (s : State) (p : Fin 8) (f g : Port → Port) :
    (s.modPort p f).modPort p g = s.modPort p fun q => g (f q) := by
  simp [State.modPort]

theorem modPort_congr (s : State) (p : Fin 8) {f g : Port → Port} (h : f (s.port p) = g (s.port p)) :
    s.modPort p f = s.modPort p g := by
  simp only [State.modPort]
  rw [show f s.ports[p] = g s.ports[p] from h]

/-- `s` with another change queue. -/
def withChanges (c : ChangeQueue) (s : State) : State := { s with changes := c }

theorem withChanges_port (c : ChangeQueue) (s : State) (p : Fin 8) : (withChanges c s).port p = s.port p := rfl

theorem pushChange_withChanges (s : State) (c : Change) : s.pushChange c = withChanges (withEntry s.now c s.changes) s :=
  pushChange_eq s c

theorem withChanges_modPort (c : ChangeQueue) (s : State) (p : Fin 8) (f : Port → Port) :
    (withChanges c s).modPort p f = withChanges c (s.modPort p f) := rfl

/-- A switch of the lane sets tally and revert timer whatever they were. -/
theorem switchLane_modPort (p : Fin 8) (L : Lane) (s : State) (tally : Port → Tally) (revert : Port → Timer) :
    switchLane p L (s.modPort p fun q =>
      { q with circuit := { q.circuit with tally := tally q, revert := revert q } }) = switchLane p L s :=
  congrArg (fun t => evaluateDelay p (State.pushChange t (.laneSwitch p L))) (modPort_modPort s p _ _)

/-! ### The criteria of lane selection -/

section
variable {p : Fin 8} {s : State} {L : Lane}

theorem checkTraffic_switches (run : s.ctl.station = .run) (current : (s.port p).circuit.current = some L)
    (limit : recSwitchLimit (s.setting p) ≤ (s.port p).circuit.tally.run)
    (seen : (s.port p).circuit.tally.otherSeen = true) : checkTraffic p s = switchLane p L.other s := by
  unfold checkTraffic
  rw [current]
  exact if_pos (by simp [run, limit, seen])

theorem checkTraffic_stays (h : (s.port p).circuit.tally.run < recSwitchLimit (s.setting p) ∨
    (s.port p).circuit.tally.otherSeen = false) : checkTraffic p s = s := by
  unfold checkTraffic
  split
  · rfl
  · refine if_neg fun switches => ?_
    simp only [Bool.and_eq_true, decide_eq_true_eq] at switches
    rcases h with below | unseen
    · omega
    · rw [unseen] at switches
      cases switches.2

theorem checkPresence_switches (current : (s.port p).circuit.current = some L) (absent : s.farPresent p L = false)
    (there : s.farPresent p L.other = true) : checkPresence p s = switchLane p L.other s := by
  unfold checkPresence
  rw [current]
  exact if_pos (by simp [absent, there])

theorem checkPresence_stays (h : ∀ c, (s.port p).circuit.current = some c →
    s.farPresent p c = true ∨ s.farPresent p c.other = false) : checkPresence p s = s := by
  unfold checkPresence
  split
  · rfl
  · rename_i c current
    refine if_neg fun switches => ?_
    simp only [Bool.and_eq_true, Bool.not_eq_true'] at switches
    rcases h c current with h | h
    · rw [switches.1] at h; cases h
    · rw [switches.2] at h; cases h

end

/-- R90: the tally that a pinned circuit's period leaves in RUN, and the criterion that is tested then. -/
theorem closeTally_run {p : Fin 8} {s : State} {L : Lane} (run : s.ctl.station = .run)
    (current : (s.port p).circuit.current = some L) :
    closeTally p s = checkTraffic p (s.modPort p fun q =>
      { q with circuit := { q.circuit with tally := q.circuit.tally.close (recSwitchLimit (s.setting p)) } }) :=
  if_pos (by simp [run, current])

theorem closeTally_outside {p : Fin 8} {s : State} (h : s.ctl.station ≠ .run ∨ (s.port p).circuit.current = none) :
    closeTally p s = s := by
  refine if_neg fun closes => ?_
  simp only [Bool.and_eq_true, beq_iff_eq] at closes
  rcases h with h | h
  · exact h closes.1
  · rw [h] at closes
    cases closes.2

/-- Settles O35 (R91, R93, R94, R130). -/
theorem laneSwitches : Obligations.LaneSwitches := by
  refine ⟨fun p s L high run current limit seen => ?_, fun p s u L high run timer due configured current => ?_⟩
  · refine ⟨checkTraffic p s, congrArg _ (running_high high _), ?_⟩
    rw [checkTraffic_switches run current limit seen]
    exact switchLane_spec p L.other s
  · refine ⟨switchLane p L s, ?_, switchLane_spec p L s⟩
    show execRevertTimerExpiry p s = _
    rw [execRevertTimerExpiry, running_high high, if_pos (by simp [run]), onExpiry_due timer due]
    simp only [configured, current]
    rw [if_neg fun same => lane_other_ne L (Option.some.inj same)]

/-! ### Presence reports -/

/-- R94: the revert timer of a circuit after a report of `L`. -/
def reportedRevert (p : Fin 8) (L : Lane) (present : Bool) (s : State) : Timer :=
  if (recMode (s.setting p)).configured = some L ∧ (s.port p).circuit.current = some L.other ∧
      1 ≤ recRevertWait (s.setting p) then
    (if present then some (s.after (recRevertWait (s.setting p) * 10000000)) else none)
  else (s.port p).circuit.revert

theorem presenceRevert_eq (p : Fin 8) (L : Lane) (present : Bool) (s : State) :
    presenceRevert p L present s =
      s.modPort p fun q => { q with circuit := { q.circuit with revert := reportedRevert p L present s } } := by
  unfold presenceRevert reportedRevert
  dsimp only
  split
  · rfl
  · exact (modPort_id s p _ (by rfl)).symm

theorem mem_rolePorts (r : Peer) (p : Fin 8) : p ∈ r.rolePorts ↔ r.circuits.getLsbD p.val = true := by
  simp [Peer.rolePorts, mem_allPorts]

theorem rolePorts_nodup (r : Peer) : r.rolePorts.Nodup := .filter _ (by decide)

/-- R40: a report reaches each port of the role by itself; entries made before it change nothing of the ports. -/
theorem reportPresence_port (r : Peer) (L : Lane) (b : Bool) (s s' : State) (same : ∀ p, Alike p s s') (p : Fin 8) :
    (reportPresence r L b s).port p =
      if r.circuits.getLsbD p.val then (presenceReport L b p s').port p else s'.port p := by
  obtain ⟨members, others, -, -⟩ := inSomeOrder_ports (presenceReport_local L b) s r.rolePorts (rolePorts_nodup r)
  split
  · rename_i role
    exact (members p ((mem_rolePorts r p).2 role)).trans ((presenceReport_local L b).alike p _ _ (same p))
  · rename_i role
    exact (others p fun h => role ((mem_rolePorts r p).1 h)).trans (same p).port

theorem alike_pushChange_left (p : Fin 8) (s : State) (c : Change) : Alike p (s.pushChange c) s :=
  ⟨State.pushChange_port .., by simp, by simp, by simp, by simp⟩

theorem alike_refl (p : Fin 8) (s : State) : Alike p s s := ⟨rfl, rfl, rfl, rfl, rfl⟩

theorem alike_ite_pushChange (b : Bool) (c : Change) (s : State) (p : Fin 8) :
    Alike p (if b then s else s.pushChange c) s := by
  split
  · exact alike_refl p s
  · exact alike_pushChange_left p s c

/-- R40, R94, R95, R130: what a report makes of a circuit in RUN. -/
theorem presenceReport_run {p : Fin 8} {s : State} (L : Lane) (b : Bool) (run : s.ctl.station = .run) :
    presenceReport L b p s = evaluateDelay p (checkPresence p (presenceRevert p L b s)) := by
  unfold presenceReport
  rw [run]

/-- Settles O36 (R40, R90 to R95, R130). -/
theorem tallyAndPresence : Obligations.TallyAndPresence := by
  refine ⟨fun p s L run current => ?tally, fun p s L current => ⟨fun absent there => ?_, fun h => ?_⟩, fun p s current =>
    ⟨closeTally_outside (.inr current), checkPresence_stays fun c hc => ?_⟩, fun p s outside =>
    closeTally_outside (.inl outside), fun p L present s => ?report, fun i L hop s r p h => ?peers⟩
  case tally =>
    intro q limit tally seen t becomes
    have eq : t = _ := closeTally_run run current
    have closed : ∀ x : Tally, tally.close limit = x →
        x.run < limit ∨ x.otherSeen = false → becomes x := fun x hx stays => by
      have here : t = s.modPort p fun q => { q with circuit := { q.circuit with tally := x } } := by
        rw [eq, checkTraffic_stays]
        · refine modPort_congr s p ?_
          rw [← hx]
        · rw [State.port_modPort_same]
          show (tally.close limit).run < limit ∨ (tally.close limit).otherSeen = false
          rw [hx]
          exact stays
      simp only [becomes]
      rw [here]
      exact ⟨State.port_modPort_same .., (modPort_onPort s p _).others, modPort_touches s p _⟩
    have notCurrent : tally.currentMark = false → tally.close limit = ⟨false, false, min limit (tally.run + 1), seen⟩ :=
      fun h => by simp [Tally.close, h, seen]
    refine ⟨fun mark => closed _ (by simp [Tally.close, mark, Tally.zero]) (.inr rfl),
      fun mark below => closed _ ((notCurrent mark).trans ?_) (.inl below),
      fun mark reached unseen => closed _ ((notCurrent mark).trans ?_) (.inr rfl), fun mark reached other => ?_⟩
    · rw [Nat.min_eq_right (by omega)]
    · rw [Nat.min_eq_left reached, unseen]
    · have switched : t = switchLane p L.other s := by
        rw [eq, checkTraffic_switches (L := L)]
        · exact switchLane_modPort p L.other s (fun q => q.circuit.tally.close limit) fun q => q.circuit.revert
        · exact run
        · rw [State.port_modPort_same]
          exact current
        · rw [State.port_modPort_same]
          show limit ≤ (tally.close limit).run
          rw [notCurrent mark]
          simp only [Nat.min_eq_left reached, le_refl]
        · rw [State.port_modPort_same]
          show (tally.close limit).otherSeen = true
          rw [notCurrent mark]
          exact other
      rw [switched]
      exact switchLane_spec p L.other s
  · rw [checkPresence_switches current absent there]
    exact switchLane_spec p L.other s
  · refine checkPresence_stays fun c hc => ?_
    rw [current] at hc
    cases hc
    exact h
  · rw [current] at hc
    cases hc
  case report =>
    intro q wait revert t
    refine ⟨fun run => ?_, fun quiet => ?_, fun notRun notQuiet => ?_⟩
    · have eq : t = _ := presenceReport_run L present run
      rw [presenceRevert_eq] at eq
      refine ⟨fun c current absent there => ?_, fun stays => ?_⟩
      · have switched : t = switchLane p c.other s := by
          rw [eq, checkPresence_switches (L := c)]
          · rw [switchLane_modPort p c.other s fun q => q.circuit.tally]
            exact switched_evaluateDelay (switchLane_spec p c.other s)
          · rw [State.port_modPort_same]
            exact current
          · exact absent
          · exact there
        rw [switched]
        exact switchLane_spec p c.other s
      · rw [eq, checkPresence_stays]
        · rfl
        · intro c hc
          rw [State.port_modPort_same] at hc
          exact stays c hc
    · show presenceReport L present p s = _
      unfold presenceReport
      rw [quiet]
    · show presenceReport L present p s = _
      unfold presenceReport
      cases station : s.ctl.station <;> first | rfl | exact absurd station ‹_›
  case peers =>
    intro becomes heard lost
    have part : ∀ l, becomes l = s.modPeerLane i L fun _ => l := fun l => (modPeerLane_eq s i L r (fun _ => l) h).symm
    have there : ∀ f : PeerLane → PeerLane, s.modPeerLane i L f = becomes (f (r.lanes.get L)) :=
      fun f => modPeerLane_eq s i L r f h
    refine ⟨fun absent => ?_, fun present => ?_⟩
    · unfold peerMark
      simp only [h, absent, there]
      exact reportPresence_port r L true _ _ (alike_ite_pushChange _ _ _) p
    · unfold loseLane
      simp only [h, present, there, if_true]
      exact reportPresence_port r L false _ _ (alike_ite_pushChange _ _ _) p

/-! ### The interval event (O29) -/

theorem enabledPorts_nodup (s : State) : s.enabledPorts.Nodup := .filter _ (by decide)

theorem enabledPorts_inSomeOrder {f : Fin 8 → State → State} (h : Local f) (s : State) :
    (∀ p ∈ s.enabledPorts, (s.inSomeOrder s.enabledPorts f).port p = (f p s).port p) ∧
    (∀ p, p ∉ s.enabledPorts → (s.inSomeOrder s.enabledPorts f).port p = s.port p) ∧
    Touches [.ports, .changes, .tieBreak] s (s.inSomeOrder s.enabledPorts f) := by
  obtain ⟨members, others, -, touched⟩ := inSomeOrder_ports h s s.enabledPorts (enabledPorts_nodup s)
  exact ⟨members, others, touched⟩

theorem reachInterval_due {s : State} (h : 10000 ≤ s.clock.interval) :
    reachInterval s = { s with clock := { s.clock with interval := s.clock.interval - 10000 } } := by
  have none_pass : Config.intervalTicks - s.clock.interval = 0 := by simp only [Config.intervalTicks]; omega
  unfold reachInterval
  rw [none_pass]
  rfl

/-- Settles O29 (R70, R90, R106). -/
theorem intervalActsPerPort : Obligations.IntervalActsPerPort := by
  intro s high due s0
  have reached : reachInterval s = s0 := reachInterval_due due
  have passed : Touches [.clock] s s0 := clock_touches s _
  have ports : ∀ p, s0.port p = s.port p := fun p =>
    congrArg (fun v : Vector Port 8 => v[p]) (passed.same .ports (by decide))
  clear_value s0
  obtain ⟨members, others, touched⟩ := enabledPorts_inSomeOrder circuitInterval_local s0
  refine ⟨s0.inSomeOrder s0.enabledPorts circuitInterval, ?_, fun p enabled => members p ?_,
    fun p disabled => (others p ?_).trans (ports p), touched.same .clock (by decide), ?_⟩
  · show execIntervalEvent s = _
    rw [execIntervalEvent, running_high high]
    simp only [reached]
  · rw [mem_enabledPorts, ports, show (s.port p).enabled = true from enabled]
  · rw [mem_enabledPorts, ports, show (s.port p).enabled = false from disabled]
    decide
  · exact (passed.mono (by decide)).trans (touched.mono (by decide))

/-! ### Far-end cells (O38) -/

theorem asymmetricFor_eq (current sender : Option Lane) :
    asymmetricFor current sender = decide ¬∃ L : Lane, current = some L ∧ sender = some L.other := by
  cases current with
  | none => simp [asymmetricFor]
  | some c =>
    cases sender with
    | none => simp [asymmetricFor]
    | some x => by_cases h : x = c.other <;> simp [asymmetricFor, h]

theorem updateAsymmetric_eq (p : Fin 8) (sender : Option Lane) (s : State) :
    let new := asymmetricFor (s.port p).circuit.current sender
    updateAsymmetric p sender s =
      withChanges (if (s.port p).circuit.asymmetric = new then s.changes
          else withEntry s.now (.asymmetry p new) s.changes)
        (s.modPort p fun q => { q with circuit := { q.circuit with asymmetric := new } }) := by
  intro new
  unfold updateAsymmetric
  by_cases same : (s.port p).circuit.asymmetric = new
  · rw [if_pos (by simpa using same), if_pos same]
    rw [modPort_id]
    · rfl
    · rw [← same]
  · rw [if_neg (by simpa using same), if_neg same, pushChange_withChanges]
    rfl

theorem markCurrentLane_eq (p : Fin 8) (L : Lane) (s : State) :
    markCurrentLane p L s = s.modPort p fun q => { q with circuit := { q.circuit with tally := { q.circuit.tally with
      currentMark := q.circuit.tally.currentMark || decide (q.circuit.current = some L) } } } := by
  unfold markCurrentLane
  split
  · rename_i current
    refine modPort_congr s p ?_
    simp [current]
  · rename_i other
    refine (modPort_id s p _ ?_).symm
    simp [other]

theorem tribSenderLane_eq (body : Octets) : tribSenderLane body =
    if (oct body 3).toNat % 4 = 1 then some .A else if (oct body 3).toNat % 4 = 2 then some .B else none := by
  unfold tribSenderLane
  split
  · rename_i one
    rw [if_pos one]
  · rename_i two
    rw [if_neg (by omega), if_pos two]
  · rename_i notOne notTwo
    rw [if_neg notOne, if_neg notTwo]

/-- R90, R96: what the controller of the port makes of a far-end cell's report. -/
theorem reported_eq (p : Fin 8) (L : Lane) (sender : Option Lane) (s : State) :
    let q := s.port p
    let new := asymmetricFor q.circuit.current sender
    markCurrentLane p L (updateAsymmetric p sender s) =
      withChanges (if q.circuit.asymmetric = new then s.changes else withEntry s.now (.asymmetry p new) s.changes)
        (s.modPort p fun q => { q with circuit := { q.circuit with
          asymmetric := new
          tally := { q.circuit.tally with
            currentMark := q.circuit.tally.currentMark || decide (q.circuit.current = some L) } } }) := by
  intro q new
  rw [markCurrentLane_eq, updateAsymmetric_eq, withChanges_modPort, modPort_modPort]

/-- Settles O38 (R60, R61, R90, R96, R99). -/
theorem farEndCells : Obligations.FarEndCells := by
  refine ⟨fun L src body s => ?_, fun p sender s => ?_⟩
  · intro p r q t named
    refine ⟨fun unnamed => ?_, fun ok other => ?_, fun ok same => ?_⟩
    · refine if_pos ?_
      by_contra h
      simp only [Bool.or_eq_true, Bool.not_eq_true', bne_iff_ne, not_or, Bool.not_eq_false, not_not] at h
      exact unnamed ⟨h.1.1, h.1.2, h.2⟩
    all_goals
      obtain ⟨enabled, station, port⟩ := ok
      have passes : ¬(!(s.port p).enabled || src != recFarStation r || tribSourcePort body != recFarPort r) = true := by
        simp [station, port, show (s.port p).enabled = true from enabled]
    · exact (if_neg passes).trans (if_pos (by simpa using other))
    · intro mode sender new tally reported
      have here : t = farEndCell p L body s := (if_neg passes).trans (if_neg (by simpa using same))
      have eq : markCurrentLane p L (updateAsymmetric p (tribSenderLane body) s) = reported := by
        rw [reported_eq, asymmetricFor_eq, tribSenderLane_eq]
        rfl
      refine ⟨fun loc => ?_, fun other => ?_⟩
      · rw [here, ← eq]
        exact if_pos (by simp [show (s.port p).circuit.loop = .loc from loc])
      · rw [here, ← eq]
        exact if_neg (by simpa using other)
  · intro q new t
    have eq : t = _ := updateAsymmetric_eq p sender s
    rw [asymmetricFor_eq] at eq
    have onPort : OnPort p s t := updateAsymmetric_onPort p sender s
    refine ⟨?_, ?_, onPort.others, onPort.touches⟩
    · rw [eq, withChanges_port, State.port_modPort_same]
    · rw [eq]
      rfl

/-! ### The delay figure and the budget (O44) -/

theorem evaluateDelay_eq {p : Fin 8} {s : State} (enabled : (s.port p).enabled = true) :
    let flag := overBudgetFor (recBudget (s.setting p)) (s.delayFigure p)
    evaluateDelay p s =
      withChanges (if (s.port p).circuit.overBudget = flag then s.changes
          else withEntry s.now (.budget p flag) s.changes)
        (s.modPort p fun q => { q with circuit := { q.circuit with
          delay := s.delayFigure p, overBudget := flag } }) := by
  intro flag
  unfold evaluateDelay
  rw [if_pos enabled]
  dsimp only
  by_cases same : (s.port p).circuit.overBudget = flag
  · rw [if_pos (by simpa using same), if_pos same]
    rfl
  · rw [if_neg (by simpa using same), if_neg same, pushChange_withChanges]
    rfl

theorem overBudgetFor_iff (budget : Nat) (figure : Option Nat) :
    overBudgetFor budget figure = true ↔ 1 ≤ budget ∧ ∃ f, figure = some f ∧ budget * 1000 < f := by
  cases figure <;> simp [overBudgetFor]

theorem qualifying_eq_some (l : PeerLane) (f : Nat) :
    l.qualifying = some f ↔ l.present = true ∧ l.figure = some f := by
  unfold PeerLane.qualifying
  split <;> simp [*]

/-- R129: the smaller of the two figures is one of them and no larger than either. -/
theorem smallerFigure_eq_some (x y : Option Nat) (f : Nat) :
    smallerFigure x y = some f ↔ (x = some f ∨ y = some f) ∧ (∀ g, x = some g → f ≤ g) ∧ ∀ g, y = some g → f ≤ g := by
  cases x <;> cases y <;> simp [smallerFigure] <;> omega

/-- R129: the figure of a FIRST circuit is the smallest among the lanes on which the peer is present. -/
theorem receptionFigure_first (current : Option Lane) (r : Peer) (f : Nat) :
    receptionFigure .first current r = some f ↔ ∃ L, (r.lanes.get L).present = true ∧ (r.lanes.get L).figure = some f ∧
      ∀ M g, (r.lanes.get M).present = true → (r.lanes.get M).figure = some g → f ≤ g := by
  show smallerFigure r.lanes.a.qualifying r.lanes.b.qualifying = some f ↔ _
  rw [smallerFigure_eq_some]
  simp only [qualifying_eq_some]
  constructor
  · rintro ⟨here, least, least'⟩
    have all : ∀ M g, (r.lanes.get M).present = true → (r.lanes.get M).figure = some g → f ≤ g := fun M g hp hg => by
      cases M
      · exact least g ⟨hp, hg⟩
      · exact least' g ⟨hp, hg⟩
    rcases here with ⟨hp, hf⟩ | ⟨hp, hf⟩
    · exact ⟨.A, hp, hf, all⟩
    · exact ⟨.B, hp, hf, all⟩
  · rintro ⟨L, hp, hf, all⟩
    refine ⟨?_, fun g ⟨hp, hg⟩ => all .A g hp hg, fun g ⟨hp, hg⟩ => all .B g hp hg⟩
    cases L
    · exact .inl ⟨hp, hf⟩
    · exact .inr ⟨hp, hf⟩

theorem receptionFigure_pinned {mode : LaneMode} (pinned : mode ≠ .first) (L : Lane) (r : Peer) :
    receptionFigure mode (some L) r = (r.lanes.get L).figure := by
  cases mode
  · exact absurd rfl pinned
  · rfl
  · rfl

/-- Settles O44 (R129 to R131). -/
theorem delayFigureAndBudget : Obligations.DelayFigureAndBudget := by
  intro p s enabled q r budget t fig flag path
  have eq : t = _ := evaluateDelay_eq enabled
  have port : t.port p = { q with circuit := { q.circuit with
      delay := s.delayFigure p, overBudget := overBudgetFor (recBudget r) (s.delayFigure p) } } := by
    rw [eq, withChanges_port, State.port_modPort_same]
  have figure : fig = s.delayFigure p := by simp only [fig, port]
  have budgeted : flag = overBudgetFor budget fig := by simp only [flag, port, figure, budget]
  have onPort : OnPort p s t := evaluateDelay_onPort p s
  refine ⟨fun unknown => ?_, fun peer known => ⟨fun pinned L current => ?_, fun first a => ?_⟩, ?_, ?_, ?_, onPort.others,
    onPort.touches⟩
  · rw [figure, State.delayFigure, State.farPeer]
    simp only [show (s.peers.find? fun x => x.station == recFarStation (s.setting p)) = none from unknown]
  · rw [figure, State.delayFigure, State.farPeer]
    simp only [show (s.peers.find? fun x => x.station == recFarStation (s.setting p)) = some peer from known]
    rw [show (s.port p).circuit.current = some L from current, receptionFigure_pinned pinned]
  · rw [figure, State.delayFigure, State.farPeer]
    simp only [show (s.peers.find? fun x => x.station == recFarStation (s.setting p)) = some peer from known]
    rw [show recMode (s.setting p) = .first from first, Option.map_eq_some_iff]
    simp only [receptionFigure_first]
    constructor
    · rintro ⟨f, ⟨L, present, here, least⟩, rfl⟩
      exact ⟨L, f, present, here, rfl, least⟩
    · rintro ⟨L, f, present, here, rfl, least⟩
      exact ⟨f, ⟨L, present, here, least⟩, rfl⟩
  · rw [budgeted]
    exact overBudgetFor_iff budget fig
  · rw [port, budgeted, figure]
  · rw [budgeted, figure, eq]
    rfl

end Sys2Proof.Machine
end

section
/-! Origination and grants (chapter 1): the stamps, one copy offered to each lane, an ECHO granted at once, and the frame
that follows a completed transmission. -/

namespace Sys2Proof.Machine

open Sys2Proof.Safety

/-! ### Octets at an offset, and the stamp (section 11.3, R17) -/

theorem oct_append_add (a b : Octets) (n i : Nat) (h : a.length = n) : oct (a ++ b) (n + i) = oct b i := by
  rw [← h]
  exact oct_append_right a b i

theorem rd16_append (a b : Octets) (n : Nat) (h : a.length = n) (v : BitVec 16) : rd16 (a ++ (be16 v ++ b)) n = v := by
  have high : oct (a ++ (be16 v ++ b)) n = oct (be16 v ++ b) 0 := oct_append_add _ _ n 0 h
  rw [rd16, high, oct_append_add _ _ n 1 h]
  exact be16_read v

theorem rd32_append (a b : Octets) (n : Nat) (h : a.length = n) (v : BitVec 32) : rd32 (a ++ (be32 v ++ b)) n = v := by
  have first : oct (a ++ (be32 v ++ b)) n = oct (be32 v ++ b) 0 := oct_append_add _ _ n 0 h
  rw [rd32, rd16, rd16, first, oct_append_add _ _ n 1 h, oct_append_add _ _ n 2 h,
    show n + 2 + 1 = n + 3 from rfl, oct_append_add _ _ n 3 h]
  exact be32_read v

section
variable {f : Octets} {i : Nat}

theorem stampAt_length (h : i + 4 ≤ f.length) (t : Time) : (stampAt f i t).length = f.length := by
  simp [stampAt, be32]
  omega

theorem rd32_stampAt (h : i + 4 ≤ f.length) (t : Time) : rd32 (stampAt f i t) i = t := by
  rw [stampAt, List.append_assoc]
  exact rd32_append _ _ i (List.length_take_of_le (by omega)) t

theorem oct_stampAt (h : i + 4 ≤ f.length) (t : Time) {j : Nat} (beside : j < i ∨ i + 4 ≤ j) :
    oct (stampAt f i t) j = oct f j := by
  have taken : (f.take i).length = i := List.length_take_of_le (by omega)
  rw [stampAt, List.append_assoc]
  rcases beside with before | behind
  · rw [oct_append_left _ _ _ (by omega)]
    simp [oct, List.getD_eq_getElem?_getD, before]
  · obtain ⟨k, rfl⟩ := Nat.exists_eq_add_of_le behind
    rw [Nat.add_assoc, oct_append_add _ _ i _ taken, oct_append_add _ _ 4 k (by rfl), ← Nat.add_assoc]
    simp [oct, List.getD_eq_getElem?_getD, List.getElem?_drop]

end

theorem stamped_echo {f : Octets} (echo : oct f 0 = 3) (t : Time) : stamped f t = stampAt f 9 t := by
  simp [stamped, echo, FrameKind.code]

theorem stamped_echoR {f : Octets} (echo : oct f 0 = 4) (t : Time) : stamped f t = stampAt f 17 t := by
  simp [stamped, echo, FrameKind.code]

theorem stamped_unstamped {f : Octets} (echo : oct f 0 ≠ 3) (echoR : oct f 0 ≠ 4) (t : Time) : stamped f t = f := by
  have notEcho : ¬(oct f 0 == FrameKind.echo.code) = true := by simpa [FrameKind.code] using echo
  have notEchoR : ¬(oct f 0 == FrameKind.echoR.code) = true := by simpa [FrameKind.code] using echoR
  rw [stamped, if_neg notEcho, if_neg notEchoR]

/-! ### The grant of an ECHO (O14) -/

/-- R17, R121: an own ECHO is granted stamped and filed. -/
theorem grant_echo {L : Lane} {s : State} {f : Octets} {rest : Forwarder} (idle : (s.forwarder L).egress = .idle)
    (next : nextFrame (s.forwarder L) = some (true, f, rest)) (echo : oct f 0 = 3) (long : 13 ≤ f.length) :
    grant L s = fileEcho L (frameDest f) s.now
      (startSending L (withCheck (stampAt f 9 s.now)) (s.modForwarder L fun _ => rest)) := by
  have kind : (oct (stampAt f 9 s.now) 0 == FrameKind.echo.code) = true := by
    rw [oct_stampAt long s.now (.inl (by decide)), echo]
    rfl
  have dest : frameDest (stampAt f 9 s.now) = frameDest f := by
    rw [frameDest, oct_stampAt long s.now (.inl (by decide)), frameDest]
  simp only [grant, idle, next, if_true, stamped_echo echo, kind, dest]

/-- Settles O14 (R17, R121, R122, R128, R130). -/
theorem echoStampedAndFiled : Obligations.EchoStampedAndFiled := by
  intro L s f rest i r idle transit localQ ordinary echo long here station first t part
  have plain : ∀ g ∈ (s.forwarder L).localQ, isUrgent g = false := by
    rw [localQ]
    rintro g (_ | ⟨_, later⟩)
    · simp [isUrgent, echo, FrameKind.code]
    · exact ordinary g later
  have next := nextFrame_ordinary (s.forwarder L) f rest plain transit localQ
  have lane := grant_forwarder L s true f _ idle next
  rw [if_pos rfl, stamped_echo echo] at lane
  refine ⟨congrArg Forwarder.egress lane, congrArg Forwarder.localQ lane, ?_, grant_other L L.other s (lane_other_ne L),
    grant_touches L s⟩
  refine ⟨startSending L (withCheck (stampAt f 9 s.now)) (s.modForwarder L fun _ => { s.forwarder L with localQ := rest }),
    ((modForwarder_touches s L _).mono (by decide)).trans (startSending_touches _ _ _), ?_⟩
  have filed := fileEcho_spec L (frameDest f) s.now
    (startSending L (withCheck (stampAt f 9 s.now)) (s.modForwarder L fun _ => { s.forwarder L with localQ := rest }))
    i r here station first
  rw [← grant_echo idle next echo long] at filed
  dsimp only at filed
  refine ⟨fun none => ?_, fun some few => ?_, fun some many => ?_⟩
  · rwa [if_pos none] at filed
  · rwa [if_neg some, if_pos few] at filed
  · rwa [if_neg some, if_neg (Nat.not_lt.2 many)] at filed

/-! ### Copies offered to the lanes (O15) -/

/-- R12, R13, R15, R16: lane `L` alone has been offered the frame `f`. -/
def TakesCopy (f : Octets) (L : Lane) (s t : State) : Prop :=
  Offered f s.now (s.forwarder L) (t.forwarder L) ∧
  SendTime f s.now (s.forwarder L) (s.clock.sendLeft.get L) (t.clock.sendLeft.get L) ∧
  t.forwarder L.other = s.forwarder L.other ∧
  t.clock.sendLeft.get L.other = s.clock.sendLeft.get L.other ∧
  t.clock = { s.clock with sendLeft := t.clock.sendLeft } ∧ Touches [.lanes, .clock] s t

theorem lane_eq_other {L M : Lane} (h : M ≠ L) : M = L.other := by
  cases L <;> cases M <;> simp_all [Lane.other]

/-- R11: offers made one after another to different lanes, each on a state of which `ready` holds. -/
theorem offers_spec (f : Octets) (ready : State → Prop) : ∀ (lanes : List Lane) (s : State), lanes.Nodup →
    (∀ L ∈ lanes, ∀ t, ready t → TakesCopy f L t (offer f L t) ∧ ready (offer f L t)) → ready s →
    let t := lanes.foldl (fun s L => offer f L s) s
    (∀ L ∈ lanes, Offered f s.now (s.forwarder L) (t.forwarder L) ∧
      SendTime f s.now (s.forwarder L) (s.clock.sendLeft.get L) (t.clock.sendLeft.get L)) ∧
    (∀ L ∉ lanes, t.forwarder L = s.forwarder L ∧ t.clock.sendLeft.get L = s.clock.sendLeft.get L) ∧
    t.clock = { s.clock with sendLeft := t.clock.sendLeft } ∧ Touches [.lanes, .clock] s t
  | [], s, _, _, _ => ⟨by simp, fun _ _ => ⟨rfl, rfl⟩, rfl, .refl _ _⟩
  | L :: rest, s, distinct, step, here => by
    obtain ⟨notIn, distinct⟩ := List.nodup_cons.1 distinct
    obtain ⟨⟨took, time, other, otherTime, clock, touched⟩, next⟩ := step L (by simp) s here
    obtain ⟨members, others, clock', touched'⟩ := offers_spec f ready rest (offer f L s) distinct
      (fun M hM => step M (by simp [hM])) next
    have now : (offer f L s).now = s.now := by rw [State.now, clock, State.now]
    refine ⟨fun M hM => ?_, fun M hM => ?_, ?_, touched.trans touched'⟩
    · by_cases same : M = L
      · subst same
        obtain ⟨fwd, left⟩ := others M notIn
        rw [List.foldl_cons, fwd, left]
        exact ⟨took, time⟩
      · have := members M ((List.mem_cons.1 hM).resolve_left same)
        rwa [now, lane_eq_other same, other, otherTime, ← lane_eq_other same] at this
    · obtain ⟨ne, notRest⟩ := not_or.1 fun h => hM (List.mem_cons.2 h)
      obtain ⟨fwd, left⟩ := others M notRest
      rw [List.foldl_cons, fwd, left, lane_eq_other ne]
      exact ⟨other, otherTime⟩
    · rw [List.foldl_cons, clock', clock]

theorem ownFrame_length (k : FrameKind) (dst : Nat) (body : Octets) (s : State) :
    (ownFrame k dst body s).length = 9 + (padTo 47 body).length := by
  simp [ownFrame, buildFrame, be16]
  omega

theorem ownFrame_kind (k : FrameKind) (dst : Nat) (body : Octets) (s : State) : oct (ownFrame k dst body s) 0 = k.code :=
  rfl

/-- R11: the state on which an origination offers its copies: one sequence value has been taken. -/
def sequenceTaken (s : State) : State := { s with ctl := { s.ctl with sequence := s.ctl.sequence + 1 } }

theorem originate_run {s : State} (run : s.ctl.station = .run) (k : FrameKind) (dst : Nat) (body : Octets)
    (lanes : List Lane) :
    originate k dst body lanes s = lanes.foldl (fun x L => offer (ownFrame k dst body s) L x) (sequenceTaken s) :=
  if_pos (by rw [run]; rfl)

theorem originates_of_ready {s : State} (run : s.ctl.station = .run) (k : FrameKind) (dst : Nat) (body : Octets)
    {lanes : List Lane} (distinct : lanes.Nodup) (ready : State → Prop) (here : ready (sequenceTaken s))
    (step : ∀ L ∈ lanes, ∀ t, ready t →
      TakesCopy (ownFrame k dst body s) L t (offer (ownFrame k dst body s) L t) ∧
        ready (offer (ownFrame k dst body s) L t)) :
    Originates lanes (ownFrame k dst body s) s (originate k dst body lanes s) := by
  rw [originate_run run]
  obtain ⟨members, others, clock, touched⟩ := offers_spec (ownFrame k dst body s) ready lanes (sequenceTaken s) distinct
    step here
  exact ⟨touched.same .ctl (by decide), members, others, clock,
    ((ctl_touches s _).mono (by decide)).trans (touched.mono (by decide))⟩

theorem settled_of_lanes {s t : State} (h : t.lanes = s.lanes) (settled : Settled s) : Settled t := by
  simpa only [Settled, State.forwarder, h] using settled

/-- R11, R12, R173: an origination of any kind but ECHO, on lanes whose egress is settled. -/
theorem originate_originates {s : State} {k : FrameKind} {lanes : List Lane} (run : s.ctl.station = .run)
    (settled : Settled s) (distinct : lanes.Nodup) (notEcho : k ≠ .echo) (dst : Nat) (body : Octets) :
    Originates lanes (ownFrame k dst body s) s (originate k dst body lanes s) := by
  have kind : oct (ownFrame k dst body s) 0 ≠ FrameKind.echo.code := by
    rw [ownFrame_kind]
    cases k <;> first | exact absurd rfl notEcho | decide
  have long : 9 ≤ (ownFrame k dst body s).length := by
    rw [ownFrame_length]
    omega
  exact originates_of_ready run k dst body distinct Settled (settled_of_lanes rfl settled) fun L _ t here =>
    ⟨offer_spec _ L t here kind long, offer_settled _ L t here kind long⟩

/-- R12, R13: a frame of any kind offered to a lane that is sending is judged by its queue. -/
theorem offer_sending {s : State} {L : Lane} (f : Octets) (sending : (s.forwarder L).egress ≠ .idle) :
    ∃ l, Offered f s.now (s.forwarder L) l ∧ l.egress = (s.forwarder L).egress ∧
      offer f L s = s.modForwarder L fun _ => l := by
  have keeps : ∀ g : Forwarder → Forwarder, (g (s.forwarder L)).egress = (s.forwarder L).egress →
      grant L (s.modForwarder L g) = s.modForwarder L g := fun g same => by
    cases egress : (s.forwarder L).egress with
    | idle => exact absurd egress sending
    | sending x =>
      refine grant_sending L _ x ?_
      rw [State.forwarder_modForwarder_same, same, egress]
  have full : ∀ l, Offered f s.now (s.forwarder L) l ↔ _ := fun l => Iff.of_eq (if_neg sending)
  unfold offer
  dsimp only
  by_cases room : (s.forwarder L).localQ.length < 12
  · refine ⟨{ s.forwarder L with localQ := (s.forwarder L).localQ ++ [f] }, (full _).2 ?_, rfl, ?_⟩
    · rw [if_pos room]
    · exact (if_pos room).trans (keeps _ rfl)
  · rw [if_neg (show ¬(s.forwarder L).localQ.length < Config.localCapacity from room)]
    split
    · rename_i rest dropped
      obtain ⟨urgent, dropped⟩ : isUrgent f = true ∧ dropNewestOrdinary (s.forwarder L).localQ = some rest := by
        split at dropped
        · exact ⟨‹_›, dropped⟩
        · cases dropped
      obtain ⟨older, o, newer, queue, ordinary, later, left⟩ := dropNewestOrdinary_eq_some dropped
      refine ⟨{ s.forwarder L with
        localQ := rest ++ [f]
        counts := { (s.forwarder L).counts with localDrops := bump (s.forwarder L).counts.localDrops } },
        (full _).2 ?_, rfl, ?_⟩
      · rw [if_neg room, if_pos ⟨urgent, o, by simp [queue], ordinary⟩]
        exact ⟨older, o, newer, queue, ordinary, later, by rw [left]⟩
      · rw [keeps _ rfl]
        rfl
    · rename_i kept
      have notDropped : ¬(isUrgent f = true ∧ ∃ g ∈ (s.forwarder L).localQ, isUrgent g = false) := by
        rintro ⟨urgent, g, member, ordinary⟩
        rw [if_pos urgent, dropNewestOrdinary_eq_none_iff] at kept
        rw [kept g member] at ordinary
        cases ordinary
      refine ⟨{ s.forwarder L with
        counts := { (s.forwarder L).counts with localDrops := bump (s.forwarder L).counts.localDrops } },
        (full _).2 ?_, rfl, rfl⟩
      rw [if_neg room, if_neg notDropped]

theorem offer_sending_takesCopy {s : State} {L : Lane} (f : Octets) (sending : (s.forwarder L).egress ≠ .idle) :
    TakesCopy f L s (offer f L s) := by
  obtain ⟨l, offered, -, eq⟩ := offer_sending f sending
  rw [eq]
  refine ⟨?_, (if_neg sending).symm, State.forwarder_modForwarder_other _ _ _ _ (lane_other_ne L), rfl, rfl,
    (modForwarder_touches s L _).mono (by decide)⟩
  rw [State.forwarder_modForwarder_same]
  exact offered

theorem offer_egress {s : State} {L M : Lane} (f : Octets) (sending : (s.forwarder L).egress ≠ .idle) :
    ((offer f L s).forwarder M).egress = (s.forwarder M).egress := by
  obtain ⟨l, -, same, eq⟩ := offer_sending f sending
  rw [eq]
  by_cases h : M = L
  · rw [h, State.forwarder_modForwarder_same, same]
  · rw [State.forwarder_modForwarder_other _ _ _ _ h]

/-- R15, R17, R121: an ECHO offered to a settled lane whose egress is IDLE is granted at once. -/
theorem offer_echo_idle {s : State} {L : Lane} {f : Octets} (settled : Settled s) (idle : (s.forwarder L).egress = .idle)
    (echo : oct f 0 = 3) (long : 13 ≤ f.length) :
    offer f L s = fileEcho L (frameDest f) s.now (startSending L (withCheck (stampAt f 9 s.now)) s) := by
  obtain ⟨transit, localQ⟩ := settled L idle
  have offered : offer f L s = grant L (s.modForwarder L fun l => { l with localQ := l.localQ ++ [f] }) := by
    simp [offer, localQ, Config.localCapacity]
  have queued : (s.modForwarder L fun l => { l with localQ := l.localQ ++ [f] }).forwarder L =
      { s.forwarder L with localQ := [f] } := by simp [localQ]
  have next : nextFrame ((s.modForwarder L fun l => { l with localQ := l.localQ ++ [f] }).forwarder L) =
      some (true, f, s.forwarder L) := by
    rw [queued, nextFrame_ordinary { s.forwarder L with localQ := [f] } f [] (by simp [isUrgent, echo, FrameKind.code])
      transit rfl, ← localQ]
  rw [offered, grant_echo (by rw [queued]; exact idle) next echo long]
  have same : (s.modForwarder L fun l => { l with localQ := l.localQ ++ [f] }).modForwarder L (fun _ => s.forwarder L) =
      s := by cases L <;> rfl
  rw [same]
  rfl

/-- R16: the sending of a frame that has just been granted to an IDLE egress of the state `s`. -/
structure Sends (L : Lane) (frame : Octets) (s t : State) : Prop where
  ctl : t.ctl = { s.ctl with sequence := s.ctl.sequence + 1 }
  lane : t.forwarder L = { s.forwarder L with egress := .sending frame }
  clock : t.clock = { s.clock with sendLeft := s.clock.sendLeft.set L (frame.length * 2) }
  other : t.forwarder L.other = s.forwarder L.other
  touches : Touches [.ctl, .lanes, .clock] s t

theorem startSending_granted (L : Lane) (frame : Octets) (s : State) :
    Sends L frame s (startSending L frame (sequenceTaken s)) where
  ctl := rfl
  lane := startSending_forwarder L frame (sequenceTaken s)
  clock := rfl
  other := startSending_other L L.other frame (sequenceTaken s) (lane_other_ne L)
  touches := ((ctl_touches s _).mono (by decide)).trans ((startSending_touches L frame _).mono (by decide))

theorem fileEcho_none {L : Lane} {n : Nat} {t1 : Time} {s : State} (h : ∀ r ∈ s.peers, r.station ≠ n) :
    fileEcho L n t1 s = s := by
  rw [fileEcho, peerIndex_none h]

/-- R17, R121: what a granted ECHO comes to, sent and filed. -/
theorem fileEcho_granted {L : Lane} {f : Octets} {s m : State}
    (sends : Sends L (withCheck (stampAt f 9 s.now)) s m) :
    EchoGranted L f s (fileEcho L (frameDest f) s.now m) := by
  have filed := fileEcho_touches L (frameDest f) s.now m
  have peers : m.peers = s.peers := sends.touches.same .peers (by decide)
  refine ⟨(filed.same .ctl (by decide)).trans sends.ctl, ?_, (fileEcho_clock ..).trans sends.clock, ?_,
    ⟨fun unknown => ?_, fun i r here station first => ?_⟩, (sends.touches.mono (by decide)).trans (filed.mono (by decide))⟩
  · rw [State.forwarder, fileEcho_lanes]
    exact sends.lane
  · rw [State.forwarder, fileEcho_lanes]
    exact sends.other
  · rw [fileEcho_none (by rwa [peers])]
    exact sends.touches
  · exact ⟨m, sends.touches, fileEcho_spec L (frameDest f) s.now m i r (by rwa [peers]) station (by rwa [peers])⟩

/-- Settles O15 (R11 to R13, R15 to R17, R121, R173). -/
theorem originationRule : Obligations.OriginationRule := by
  refine ⟨fun k dst body lanes s run settled distinct notEcho =>
      originate_originates run settled distinct notEcho dst body,
    fun k dst body lanes s => originate_outside_run k dst body lanes s,
    fun k dst body lanes s run sending distinct => ?_, fun dst body L s run settled idle => ?_, fun f now long => ?_⟩
  · exact originates_of_ready run k dst body distinct (fun t => ∀ L ∈ lanes, (t.forwarder L).egress ≠ .idle) sending
      fun L member t here => ⟨offer_sending_takesCopy _ (here L member), fun M hM => by
        rw [offer_egress _ (here L member)]
        exact here M hM⟩
  · have long : 13 ≤ (ownFrame .echo dst body s).length := by
      rw [ownFrame_length, padTo, List.length_append, zeros, List.length_replicate]
      omega
    have granted : originate .echo dst body [L] s = _ := (originate_run run .echo dst body [L]).trans
      (offer_echo_idle (s := sequenceTaken s) (settled_of_lanes rfl settled) idle (ownFrame_kind .echo dst body s) long)
    rw [granted]
    exact fileEcho_granted (startSending_granted L _ s)
  · intro g place
    by_cases echo : oct f 0 = 3
    · have stamp : g = stampAt f 9 now := stamped_echo echo now
      have at9 : place = some 9 := if_pos echo
      simp only [stamp, at9]
      exact ⟨stampAt_length (by omega) now, fun a ha => by cases ha; exact rd32_stampAt (by omega) now,
        fun i beside => oct_stampAt (by omega) now (beside 9 rfl)⟩
    by_cases echoR : oct f 0 = 4
    · have stamp : g = stampAt f 17 now := stamped_echoR echoR now
      have at17 : place = some 17 := (if_neg echo).trans (if_pos echoR)
      simp only [stamp, at17]
      exact ⟨stampAt_length (by omega) now, fun a ha => by cases ha; exact rd32_stampAt (by omega) now,
        fun i beside => oct_stampAt (by omega) now (beside 17 rfl)⟩
    · have plain : g = f := stamped_unstamped echo echoR now
      have nowhere : place = none := (if_neg echo).trans (if_neg echoR)
      simp only [plain, nowhere]
      exact ⟨trivial, fun a ha => (by cases ha), fun _ _ => trivial⟩

/-! ### The end of a transmission (O17) -/

/-- A grant changes of the clock the sending times alone. -/
theorem grant_time (L : Lane) (s : State) : (grant L s).clock.time = s.clock.time := by
  cases egress : (s.forwarder L).egress with
  | sending g => rw [grant_sending L s g egress]
  | idle =>
    cases next : nextFrame (s.forwarder L) with
    | none => rw [grant_empty L s (nextFrame_none next).1 (nextFrame_none next).2]
    | some x => rw [grant_clock L s x.1 x.2.1 x.2.2 egress next]

/-- Settles O17 (R14, R16). -/
theorem transmissionCompletes : Obligations.TransmissionCompletes := by
  intro L s f high sending s0 l done
  let m := s0.modForwarder L fun l =>
    { l with egress := .idle, counts := { l.counts with framesSent := bump l.counts.framesSent } }
  have lane : m.forwarder L = done := State.forwarder_modForwarder_same s0 L _
  have idle : (m.forwarder L).egress = .idle := congrArg Forwarder.egress lane
  have granted : ∀ own g rest, nextFrame done = some (own, g, rest) →
      (grant L m).forwarder L = { rest with egress := .sending (if own then withCheck (stamped g s0.now) else g) } ∧
      (grant L m).clock.sendLeft.get L = (if own then withCheck (stamped g s0.now) else g).length * 2 :=
    fun own g rest next => by
      rw [← lane] at next
      refine ⟨grant_forwarder L m own g rest idle next, ?_⟩
      rw [grant_clock L m own g rest idle next]
      exact PerLane.get_set_same ..
  have elapsed : Touches [.lanes, .clock, .peers, .ports, .changes, .tieBreak] s m :=
    ((elapse_touches s _).mono (by decide)).trans ((modForwarder_touches s0 L _).mono (by decide))
  refine ⟨grant L m, ?_, fun transit localQ => ?_, fun older g newer queue ordinary urgent => ?_,
    fun g rest ordinary transit => ?_, fun g rest ordinary transit queue => ?_, ?_, ?_,
    elapsed.trans (grant_touches L m)⟩
  · show execTransmissionCompletion L s = _
    rw [execTransmissionCompletion, running_high high]
    simp only [sending]
    rfl
  · have still : grant L m = m := grant_empty L m (by rw [lane]; exact transit) (by rw [lane]; exact localQ)
    rw [still]
    exact ⟨lane, rfl⟩
  · rw [(granted _ _ _ (nextFrame_urgent done older newer g queue ordinary urgent)).1]
    simp only [if_true, stamped_urgent g s0.now urgent]
  · exact granted _ _ _ (nextFrame_transit done g rest ordinary transit)
  · exact (granted _ _ _ (nextFrame_ordinary done g rest ordinary transit queue)).1
  · exact (grant_other L L.other m (lane_other_ne L)).trans
      (State.forwarder_modForwarder_other s0 L _ _ (lane_other_ne L))
  · exact grant_time L m

end Sys2Proof.Machine
end

section
/-! The ring's records (chapter 2): the duplicate window, a peer's MARKs and the timers of lanes, entries and peers. -/

namespace Sys2Proof.Machine

open Sys2Proof.Safety

/-! ### The duplicate window (O19) -/

theorem one_shiftLeft_bit (d i : Nat) (h : i < 64) : ((1 : BitVec 64) <<< d).getLsbD i = decide (i = d) := by
  rw [BitVec.getLsbD_shiftLeft, show (1 : BitVec 64) = 1#64 from rfl, BitVec.getLsbD_one]
  simp only [h, decide_true, Bool.true_and]
  by_cases below : i < d
  · simp [below]
    omega
  · simp [below]
    omega

/-- R27: the bits of a window that has moved up by `k` sequence values to a new front. -/
theorem moved_window_bit (w : BitVec 64) (k i : Nat) (h : i < 64) :
    (w <<< k ||| 1).getLsbD i = (decide (i = 0) || (decide (k ≤ i) && w.getLsbD (i - k))) := by
  rw [BitVec.getLsbD_or, BitVec.getLsbD_shiftLeft, show (1 : BitVec 64) = 1#64 from rfl, BitVec.getLsbD_one]
  by_cases zero : i = 0
  · simp [zero]
  · by_cases below : i < k <;> simp [zero, h, below, Nat.not_lt.1, Nat.not_le.2]

section
variable {e : DupEntry} {seq : BitVec 16}

theorem judgeSequence_near (near : (e.front - seq).toNat ≤ 63) : judgeSequence (some e) seq =
    if e.window.getLsbD (e.front - seq).toNat then .duplicate
    else .accepted e.front (e.window ||| (1 : BitVec 64) <<< (e.front - seq).toNat) :=
  if_pos near

theorem judgeSequence_stale (far : 64 ≤ (e.front - seq).toNat) (behind : (e.front - seq).toNat ≤ 32768) :
    judgeSequence (some e) seq = .stale :=
  (if_neg (by omega)).trans (if_pos behind)

theorem judgeSequence_ahead (ahead : 32769 ≤ (e.front - seq).toNat) : judgeSequence (some e) seq =
    .accepted seq (e.window <<< (65536 - (e.front - seq).toNat) ||| 1) :=
  (if_neg (by omega)).trans (if_neg (by omega))

end

theorem judgeSequence_front (front : BitVec 16) (w : BitVec 64) (age : Time) (h : w.getLsbD 0 = true) :
    judgeSequence (some ⟨front, w, age⟩) front = .duplicate := by
  have here : (front - front).toNat = 0 := by simp
  rw [judgeSequence_near (by simp only [here]; omega)]
  simp only [here, h, if_true]

/-- Settles O19 (R27, R28). -/
theorem windowTable : Obligations.WindowTable := by
  refine ⟨fun seq => ⟨1, rfl, fun i below => ?_⟩, fun e seq => ?_⟩
  · exact one_shiftLeft_bit 0 i below
  intro d v
  refine ⟨fun near seen => ?_, fun near unseen => ?_,
    fun far behind => judgeSequence_stale far behind, fun ahead => ?_, fun front w age accepted => ?_⟩
  · exact (judgeSequence_near near).trans (if_pos seen)
  · refine ⟨_, (judgeSequence_near near).trans (if_neg (by rw [unseen]; decide)), fun i below => ?_⟩
    rw [BitVec.getLsbD_or, one_shiftLeft_bit _ _ below]
  · have : d < 65536 := (e.front - seq).isLt
    exact ⟨_, judgeSequence_ahead ahead, fun i below => moved_window_bit e.window _ i below⟩
  · have below : d < 65536 := (e.front - seq).isLt
    by_cases near : d ≤ 63
    · have verdict : v = _ := judgeSequence_near near
      rw [accepted] at verdict
      split at verdict
      · cases verdict
      · cases verdict
        refine (judgeSequence_near (e := ⟨e.front, _, age⟩) near).trans (if_pos ?_)
        rw [BitVec.getLsbD_or, one_shiftLeft_bit _ _ (Nat.lt_succ_of_le near), decide_eq_true rfl, Bool.or_true]
    · by_cases behind : d ≤ 32768
      · have verdict : v = _ := judgeSequence_stale (by omega) behind
        rw [accepted] at verdict
        cases verdict
      · have verdict : v = _ := judgeSequence_ahead (by omega)
        rw [accepted] at verdict
        cases verdict
        refine judgeSequence_front _ _ _ ?_
        rw [moved_window_bit _ _ 0 (by omega)]
        rfl

/-! ### A lane part replaced, and the presence report that follows (O23, O24) -/

/-- A state whose peer records are those of `s` with one lane part replaced. -/
theorem replaced_part {s t : State} {i : Nat} {L : Lane} {r : Peer} {part : PeerLane} (h : s.peers[i]? = some r)
    (peers : t.peers = (withPart i L r part s).peers) :
    (∃ r', t.peers[i]? = some r' ∧ r'.station = r.station ∧ r'.circuits = r.circuits ∧ r'.commands = r.commands ∧
      r'.lanes.get L = part ∧ r'.lanes.get L.other = r.lanes.get L.other) ∧
    ∀ j, j ≠ i → t.peers[j]? = s.peers[j]? := by
  refine ⟨⟨{ r with lanes := r.lanes.set L part }, ?_, rfl, rfl, rfl, PerLane.get_set_same ..,
    PerLane.get_set_other _ _ _ _ (lane_other_ne L)⟩, fun j other => ?_⟩
  · rw [peers]
    exact peers_withPart i L r part s h
  · rw [peers]
    exact List.getElem?_set_ne (Ne.symm other)

theorem withPart_touches (i : Nat) (L : Lane) (r : Peer) (part : PeerLane) (s : State) :
    Touches [.peers] s (withPart i L r part s) := by
  intro x hx
  cases x <;> first | rfl | simp at hx

/-- R38, R39: an entry that is made unless the peer's other lane is present. -/
def enteredUnless (present : Bool) (c : Change) (s : State) : State := if present then s else s.pushChange c

theorem enteredUnless_touches (present : Bool) (c : Change) (s : State) :
    Touches [.changes] s (enteredUnless present c s) :=
  .ite _ (.refl _ _) (pushChange_touches s c)

theorem enteredUnless_eq (present : Bool) (c : Change) (s : State) : enteredUnless present c s =
    withChanges (if present then s.changes else withEntry s.now c s.changes) s := by
  cases present
  · exact pushChange_withChanges s c
  · rfl

section
variable {s w t : State} {present : Bool} {c : Change}

theorem entryMade_of_absent (changes : w.changes = s.changes) (clock : w.clock = s.clock) (absent : present = false)
    (grows : Grows (enteredUnless present c w) t) : EntryMade c s t := by
  subst absent
  exact .of_push changes clock grows

theorem noPresenceEntry_of_present (changes : w.changes = s.changes) (there : present = true)
    (rest : NoPresenceEntry (enteredUnless present c w) t) : NoPresenceEntry s t := by
  subst there
  exact NoPresenceEntry.trans (NoPresenceEntry.of_same changes) rest

end

theorem reportPresence_grows (r : Peer) (L : Lane) (b : Bool) (s : State) : Grows s (reportPresence r L b s) :=
  .inSomeOrder _ (fun p s => (presenceReport_onPort L b p s).grows) _ _

theorem reportPresence_noPresence (r : Peer) (L : Lane) (b : Bool) (s : State) :
    NoPresenceEntry s (reportPresence r L b s) := by
  obtain ⟨order, choices, -, eq⟩ := inSomeOrder_role r (presenceReport L b) s
  rw [reportPresence, eq]
  exact NoPresenceEntry.trans (NoPresenceEntry.of_same rfl) (reports_noPresence L b order _)

/-- R40: the reports of a peer's change, made after its entry. -/
theorem reportPresence_order (r : Peer) (L : Lane) (b present : Bool) (c : Change) (w : State) :
    ∃ order choices, RoleOrder r order ∧ reportPresence r L b (enteredUnless present c w) =
      order.foldl (fun x p => presenceReport L b p x) { w with
        tieBreak := choices
        changes := if present then w.changes else withEntry w.now c w.changes } := by
  obtain ⟨order, choices, role, eq⟩ := inSomeOrder_role r (presenceReport L b) (enteredUnless present c w)
  refine ⟨order, choices, role, eq.trans ?_⟩
  rw [enteredUnless_eq]
  rfl

section
variable {i : Nat} {L : Lane} {s : State} {r : Peer}

/-- R38: lane part `L` of a peer's record once a MARK of the peer has been heard on it. -/
def heardOn (i : Nat) (L : Lane) (r : Peer) (hop : Nat) (s : State) : State :=
  withPart i L r { r.lanes.get L with
    present := true, hop := some (64 - hop), presenceTimer := some (s.after 300000) } s

theorem peerMark_present (h : s.peers[i]? = some r) (present : (r.lanes.get L).present = true) (hop : Nat) :
    peerMark i L hop s = heardOn i L r hop s := by
  simp only [peerMark, h, present, if_true]
  exact modPeerLane_eq s i L r _ h

theorem peerMark_absent (h : s.peers[i]? = some r) (absent : (r.lanes.get L).present = false) (hop : Nat) :
    peerMark i L hop s = reportPresence r L true (enteredUnless (r.lanes.get L.other).present (.peerPresent i L)
      (heardOn i L r hop s)) := by
  simp only [peerMark, h, absent, modPeerLane_eq s i L r _ h]
  rfl

/-- R39: lane part `L` of a peer's record once its presence timer has run down. -/
def lostOn (i : Nat) (L : Lane) (r : Peer) (s : State) : State :=
  withPart i L r { r.lanes.get L with present := false, hop := none, presenceTimer := none } s

theorem loseLane_eq (h : s.peers[i]? = some r) :
    let entered := enteredUnless (r.lanes.get L.other).present (.peerAbsent i)
      (lostOn i L r s)
    loseLane i L s = if (r.lanes.get L).present then reportPresence r L false entered else entered := by
  simp only [loseLane, h, modPeerLane_eq s i L r _ h]
  rfl

end

/-- Settles O23 (R38, R40). -/
theorem peerMarkHeard : Obligations.PeerMarkHeard := by
  intro i L hop s r h t
  have touched : Touches [.peers] s (heardOn i L r hop s) := withPart_touches i L r _ s
  have peers : t.peers = (heardOn i L r hop s).peers := by
    cases present : (r.lanes.get L).present with
    | true => exact congrArg State.peers (peerMark_present h present hop)
    | false =>
      refine (congrArg State.peers (peerMark_absent h present hop)).trans ?_
      exact ((reportPresence_touches r L true _).same .peers (by decide)).trans
        ((enteredUnless_touches _ _ _).same .peers (by decide))
  obtain ⟨replaced, others⟩ := replaced_part h peers
  refine ⟨replaced, others, fun present => ?_, fun absent away => ?_, fun absent there => ?_, fun absent => ?_,
    peerMark_touches i L hop s⟩
  · rw [show t = _ from peerMark_present h present hop]
    exact touched
  · rw [show t = _ from peerMark_absent h absent hop]
    exact entryMade_of_absent (w := heardOn i L r hop s) rfl rfl away (reportPresence_grows r L true _)
  · rw [show t = _ from peerMark_absent h absent hop]
    exact noPresenceEntry_of_present (w := heardOn i L r hop s) rfl there (reportPresence_noPresence r L true _)
  · obtain ⟨order, choices, role, eq⟩ := reportPresence_order r L true (r.lanes.get L.other).present (.peerPresent i L)
      (heardOn i L r hop s)
    exact ⟨order, choices, role, (peerMark_absent h absent hop).trans eq⟩

/-! ### The timers of chapter 2 (O24) -/

theorem dupEntry_setDup_other {n m : Nat} (h : m ≠ n) (s : State) (e : Option DupEntry) :
    (s.setDup n e).dupEntry m = s.dupEntry m := by
  by_cases valid : 1 ≤ n ∧ n ≤ 62
  · by_cases valid' : 1 ≤ m ∧ m ≤ 62
    · have apart : n - 1 ≠ m - 1 := by omega
      simp [State.setDup, State.dupEntry, dupPlace, valid, valid', apart]
    · simp [State.dupEntry, dupPlace, valid']
  · simp [State.setDup, dupPlace, valid]

theorem mark_modMark_same (s : State) (L : Lane) (f : MarkLane → MarkLane) : (s.modMark L f).mark L = f (s.mark L) :=
  PerLane.get_set_same ..

theorem mark_modMark_other (s : State) (L : Lane) (f : MarkLane → MarkLane) :
    (s.modMark L f).mark L.other = s.mark L.other :=
  PerLane.get_set_other _ _ _ _ (lane_other_ne L)

theorem mark_pushChange (s : State) (c : Change) (L : Lane) : (s.pushChange c).mark L = s.mark L := by
  rw [State.mark, (pushChange_touches s c).same .marks (by decide), State.mark]

theorem dupEntry_place {s : State} {n : Nat} {e : DupEntry} (h : s.dupEntry n = some e) : 1 ≤ n ∧ n ≤ 62 := by
  by_contra outside
  simp [State.dupEntry, dupPlace, outside] at h

/-- R39, R40: what the loss of a lane part comes to. -/
theorem loseLane_spec {i : Nat} {L : Lane} {s : State} {r : Peer} (h : s.peers[i]? = some r) :
    (∃ r', (loseLane i L s).peers[i]? = some r' ∧ r'.station = r.station ∧ r'.circuits = r.circuits ∧
      r'.commands = r.commands ∧
      r'.lanes.get L = { r.lanes.get L with present := false, hop := none, presenceTimer := none } ∧
      r'.lanes.get L.other = r.lanes.get L.other) ∧
    (∀ j, j ≠ i → (loseLane i L s).peers[j]? = s.peers[j]?) ∧
    ((r.lanes.get L.other).present = false → EntryMade (.peerAbsent i) s (loseLane i L s)) ∧
    ((r.lanes.get L.other).present = true → NoPresenceEntry s (loseLane i L s)) := by
  have entered := enteredUnless_touches (r.lanes.get L.other).present (.peerAbsent i) (lostOn i L r s)
  rw [loseLane_eq h]
  cases (r.lanes.get L).present with
  | true =>
    have peers := ((reportPresence_touches r L false _).same .peers (by decide)).trans (entered.same .peers (by decide))
    obtain ⟨replaced, others⟩ := replaced_part h peers
    exact ⟨replaced, others,
      fun away => entryMade_of_absent (w := lostOn i L r s) rfl rfl away (reportPresence_grows r L false _),
      fun there => noPresenceEntry_of_present (w := lostOn i L r s) rfl there (reportPresence_noPresence r L false _)⟩
  | false =>
    obtain ⟨replaced, others⟩ := replaced_part h (entered.same .peers (by decide))
    exact ⟨replaced, others, fun away => entryMade_of_absent (w := lostOn i L r s) rfl rfl away (.refl _),
      fun there => noPresenceEntry_of_present (w := lostOn i L r s) rfl there (NoPresenceEntry.of_same rfl)⟩

/-- Settles O24 (R29, R33, R39, R40). -/
theorem ringTimersExpire : Obligations.RingTimersExpire := by
  refine ⟨fun L s u high timer due => ?_, fun st s e high here due => ?_, fun i L s r u high h timer due => ?_⟩
  · refine ⟨openLane L s, ?_, ?_, ?_, pushChange_changes _ _, openLane_touches L s⟩
    · show execReturnTimerExpiry L s = _
      rw [execReturnTimerExpiry, running_high high, onExpiry_due timer due]
    · exact (mark_pushChange _ _ L).trans (mark_modMark_same ..)
    · exact (mark_pushChange _ _ L.other).trans (mark_modMark_other ..)
  · refine ⟨s.setDup st.toNat none, ?_, dup_set s _ none (dupEntry_place here),
      fun n other => dupEntry_setDup_other other s none, setDup_touches s _ _⟩
    show execDuplicateEntryExpiry st s = _
    rw [execDuplicateEntryExpiry, running_high high]
    simp only [here, reach_expired due]
  · obtain ⟨replaced, others, away, there⟩ := loseLane_spec (L := L) h
    refine ⟨loseLane i.val L s, ?_, replaced, others, away, there, fun present => ?_, loseLane_touches i.val L s⟩
    · show execPresenceTimerExpiry i L s = _
      rw [execPresenceTimerExpiry, running_high high]
      simp only [h, onExpiry_due timer due]
    · obtain ⟨order, choices, role, eq⟩ := reportPresence_order r L false (r.lanes.get L.other).present
        (.peerAbsent i.val) (lostOn i.val L r s)
      refine ⟨order, choices, role, ?_⟩
      rw [loseLane_eq h, present]
      exact eq

end Sys2Proof.Machine
end

section
/-! Arrivals (chapters 1 and 2): frames that are stripped, end here, pass through or are delivered, the delivery of MARKs
and of every other kind, and the own MARKs that return. -/

namespace Sys2Proof.Machine

open Sys2Proof.Safety

/-! ### What a delivered frame's unit can change -/

theorem reply_touches (code : Byte) (q : QueryHead) (status : Byte) (record : Octets) (s : State) :
    Touches sendParts s (reply code q status record s) := originate_touches _ _ _ _ _

/-- What the unit of a delivered frame other than a MARK can change, a RESTART query aside. -/
def unitParts : List Part := .stats :: commandParts

theorem respond_touches (code : Byte) (q : QueryHead) (s : State) (h : code.toNat ≠ 10) :
    Touches unitParts s (respond code q s) := by
  have replies : ∀ code status record t, Touches unitParts t (reply code q status record t) :=
    fun code status record t => (reply_touches code q status record t).mono (by decide)
  have loops : ∀ code want, Touches unitParts s (answerLoop code want q s) := fun code want => by
    unfold answerLoop
    split
    · exact replies _ _ _ _
    · exact .ite _ (((requestLoop_touches _ _ s).mono (by decide)).trans (replies _ _ _ _)) (replies _ _ _ _)
  refine .ite _ ?_ (.refl _ _)
  split
  · exact replies _ _ _ _
  · unfold answerReadCircuit
    split <;> exact replies _ _ _ _
  · unfold answerReadPeer
    split <;> exact replies _ _ _ _
  · unfold answerReadCommand
    split <;> exact replies _ _ _ _
  · exact ((changes_touches s _).mono (by decide)).trans (replies _ _ _ _)
  · exact loops _ _
  · exact loops _ _
  · exact loops _ _
  · exact ((clearCounters_touches s).mono (by decide)).trans (replies _ _ _ _)
  · exact absurd ‹_› h
  · exact replies _ _ _ _

theorem updateAsymmetric_touches (p : Fin 8) (sender : Option Lane) (s : State) :
    Touches [.ports, .changes] s (updateAsymmetric p sender s) :=
  (updateAsymmetric_onPort p sender s).touches

theorem kindOf_query {b : Byte} (h : kindOf b = some .qry) : b = 7 := by
  refine BitVec.eq_of_toNat_eq ?_
  unfold kindOf at h
  split at h <;> simp_all

theorem receiveTrib_touches (L : Lane) (src : Nat) (body : Octets) (s : State) :
    Touches unitParts s (receiveTrib L src body s) := by
  have reported : ∀ p, Touches [.ports, .changes] s (markCurrentLane p L (updateAsymmetric p (tribSenderLane body) s)) :=
    fun p => (updateAsymmetric_touches p _ s).trans (markCurrentLane_eq p L _ ▸ (modPort_touches _ p _).mono (by decide))
  refine .ite _ ((modStats_touches s _).mono (by decide)) (.ite _ ((modStats_touches s _).mono (by decide)) ?_)
  exact .ite _ ((reported _).mono (by decide))
    (((reported _).trans (acceptCell_touches _ _ _)).mono (by decide))

theorem dispatch_touches (L : Lane) (f : Octets) (s : State) (h : oct f 0 = 7 → oct (frameBody f) 0 ≠ 10) :
    Touches unitParts s (dispatch L f s) := by
  refine .ite _ ?_ (.refl _ _)
  dsimp only
  split
  · exact receiveTrib_touches L _ _ s
  · exact (answerEcho_touches L _ _ _ s).mono (by decide)
  · exact (matchEcho_touches L _ _ s).mono (by decide)
  · exact (receiveCmd_touches _ _ _ s).mono (by decide)
  · exact (receiveCmdAck_touches _ _ s).mono (by decide)
  · rename_i query
    refine respond_touches _ _ s fun restart => h (kindOf_query query) (BitVec.eq_of_toNat_eq restart)
  all_goals exact .refl _ _

/-! ### Arrivals that change the lane's counters alone, and copies that pass through (O18) -/

theorem counted_wellFormed {f : Octets} (h : malformed f = false) (L : Lane) (s : State) :
    counted L f s = s.countLane L fun c => { c with framesReceived := bump c.framesReceived } := by
  simp [counted, h]

theorem exec_arrival {s : State} (high : s.rstLow = false) (L : Lane) (f : Octets) :
    exec (.frameArrival L f) s = .next (arrive L f s) :=
  congrArg _ (running_high high _)

section
variable {L : Lane} {f : Octets} {s : State} {n : Nat}

theorem judgeFrame_own (own : s.ctl.number = some (frameSource f)) : judgeFrame L f s = stripFrame L f s := by
  simp only [judgeFrame, own, if_true]

theorem judgeFrame_foreign (number : s.ctl.number = some n) (foreign : frameSource f ≠ n) :
    judgeFrame L f s = passFrame L n f s := by
  simp only [judgeFrame, number, if_neg foreign]

theorem delivers_iff : delivers n f s = true ↔ (s.ctl.station = .quiet ∨ s.ctl.station = .run) ∧ malformed f = false ∧
    (frameDest f = n ∨ frameDest f = 63) := by
  simp [delivers, and_assoc]

theorem forwards_iff : forwards n f = true ↔ frameDest f ≠ n ∧ 1 ≤ frameHop f := by
  simp [forwards]

end

/-- R6 to R9, R18: a frame of another station that is not delivered. -/
theorem passFrame_undelivered {L : Lane} {f : Octets} {s : State} {n : Nat} (h : delivers n f s = false) :
    passFrame L n f s = if forwards n f then joinTransit L (forwardedCopy f) s
      else if frameHop f = 0 then expireHop L s else s := by
  rw [passFrame, if_neg (by rw [h]; decide)]
  rfl

/-- R6, R9: a frame that neither ends here nor is delivered passes through while a hop is left. -/
theorem judgeFrame_passing {L : Lane} {f : Octets} {s : State} (foreign : s.ctl.number ≠ some (frameSource f))
    (beyond : s.ctl.number ≠ some (frameDest f))
    (undelivered : s.ctl.number = none ∨ frameDest f ≠ 63 ∨ malformed f = true ∨
      (s.ctl.station ≠ .quiet ∧ s.ctl.station ≠ .run)) :
    judgeFrame L f s = if 1 ≤ frameHop f then joinTransit L (forwardedCopy f) s else expireHop L s := by
  cases number : s.ctl.number with
  | none =>
    simp only [judgeFrame, number]
    rfl
  | some n =>
    rw [number] at foreign beyond undelivered
    have other : frameSource f ≠ n := fun same => foreign (congrArg some same.symm)
    have past : frameDest f ≠ n := fun same => beyond (congrArg some same.symm)
    have stays : delivers n f s = false := by
      rw [Bool.eq_false_iff, Ne, delivers_iff]
      rintro ⟨station, wellFormed, dest⟩
      rcases undelivered with no | elsewhere | bad | ⟨notQuiet, notRun⟩
      · cases no
      · exact dest.elim past elsewhere
      · rw [bad] at wellFormed; cases wellFormed
      · exact station.elim notQuiet notRun
    rw [judgeFrame_foreign number other, passFrame_undelivered stays]
    by_cases hop : 1 ≤ frameHop f
    · rw [if_pos hop, if_pos (forwards_iff.2 ⟨past, hop⟩)]
    · rw [if_neg hop, if_neg fun h => hop (forwards_iff.1 h).2, if_pos (by omega)]

/-! ### The delivery of a MARK -/

/-- R6: a forwarder whose *frames delivered* has counted one more. -/
def countedDelivered (l : Forwarder) : Forwarder :=
  { l with counts := { l.counts with framesDelivered := bump l.counts.framesDelivered } }

theorem forwarded_countedDelivered {copy : Octets} {l l' : Forwarder} (h : Forwarded copy l l') :
    Forwarded copy (countedDelivered l) (countedDelivered l') := by
  unfold Forwarded at h ⊢
  dsimp only at h ⊢
  by_cases idle : l.egress = .idle
  · rw [if_pos idle] at h
    rw [if_pos (show (countedDelivered l).egress = .idle from idle), h]
    rfl
  · rw [if_neg idle] at h
    rw [if_neg (show ¬(countedDelivered l).egress = .idle from idle)]
    by_cases room : l.transit.length < 16
    · rw [if_pos room] at h
      rw [if_pos (show (countedDelivered l).transit.length < 16 from room), h]
      rfl
    · rw [if_neg room] at h
      rw [if_neg (show ¬(countedDelivered l).transit.length < 16 from room), h]
      rfl

/-- R29, R38: what the delivery of a MARK does beside its lane's counter. -/
structure MarkEffects (L : Lane) (f : Octets) (s t : State) : Prop where
  dup : t.dupEntry (frameSource f) = (s.dupEntry (frameSource f)).map fun x => { x with age := s.after 2000000 }
  dups : ∀ m, m ≠ frameSource f → t.dupEntry m = s.dupEntry m
  unheard : (oct (frameBody f) 4 ≠ 3 ∨ ∀ r ∈ s.peers, r.station ≠ frameSource f) →
    Touches [.lanes, .clock, .dup, .tieBreak] s t
  heard : oct (frameBody f) 4 = 3 → ∀ (i : Nat) (r : Peer), s.peers[i]? = some r → r.station = frameSource f →
    (∀ j < i, ∀ x, s.peers[j]? = some x → x.station ≠ frameSource f) →
    (∃ r', t.peers[i]? = some r' ∧ r'.station = r.station ∧ r'.circuits = r.circuits ∧ r'.commands = r.commands ∧
      r'.lanes.get L = { r.lanes.get L with
        present := true, hop := some (64 - frameHop f), presenceTimer := some (s.after 300000) } ∧
      r'.lanes.get L.other = r.lanes.get L.other) ∧
    (∀ j, j ≠ i → t.peers[j]? = s.peers[j]?) ∧
    ((r.lanes.get L).present = true → Touches [.lanes, .clock, .dup, .peers, .tieBreak] s t) ∧
    ((r.lanes.get L).present = false → (r.lanes.get L.other).present = false → EntryMade (.peerPresent i L) s t) ∧
    ((r.lanes.get L).present = false → (r.lanes.get L.other).present = true → NoPresenceEntry s t)
  touches : Touches [.lanes, .clock, .dup, .peers, .ports, .changes, .tieBreak] s t

theorem entryMade_congr {c : Change} {s s' t t' : State} (changes : s'.changes = s.changes) (now : s'.now = s.now)
    (after : t'.changes = t.changes) (h : EntryMade c s t) : EntryMade c s' t' := by
  simpa only [EntryMade, changes, now, after] using h

theorem noPresenceEntry_congr {s s' t t' : State} (changes : s'.changes = s.changes) (after : t'.changes = t.changes)
    (h : NoPresenceEntry s t) : NoPresenceEntry s' t' := by
  simpa only [NoPresenceEntry, changes, after] using h

theorem after_of_now {s t : State} (h : t.now = s.now) (n : Nat) : t.after n = s.after n := by
  simp only [State.after, show t.clock.time = s.clock.time from h]

section
variable {L : Lane} {f : Octets} {s m t : State}

/-- A forwarded copy that joins its lane before the MARK is delivered changes nothing of the delivery. -/
theorem MarkEffects.before (moved : Touches [.lanes, .clock, .tieBreak] s m) (now : m.now = s.now)
    (h : MarkEffects L f m t) : MarkEffects L f s t where
  dup := by rw [h.dup, dupEntry_of (moved.same .dup (by decide)), after_of_now now]
  dups k other := by rw [h.dups k other, dupEntry_of (moved.same .dup (by decide))]
  unheard no := (moved.mono (by decide)).trans (h.unheard (by rwa [moved.same .peers (by decide)]))
  heard run i r here station first := by
    have peers : m.peers = s.peers := moved.same .peers (by decide)
    have changes : s.changes = m.changes := (moved.same .changes (by decide)).symm
    obtain ⟨part, others, present, absent, there⟩ := h.heard run i r (by rwa [peers]) station (by rwa [peers])
    rw [after_of_now now] at part
    exact ⟨part, by rwa [peers] at others, fun p => (moved.mono (by decide)).trans (present p),
      fun p q => entryMade_congr changes now.symm rfl (absent p q),
      fun p q => noPresenceEntry_congr changes rfl (there p q)⟩
  touches := (moved.mono (by decide)).trans h.touches

/-- A forwarded copy that joins its lane after the MARK is delivered changes nothing of the delivery. -/
theorem MarkEffects.after (h : MarkEffects L f s m) (moved : Touches [.lanes, .clock] m t) : MarkEffects L f s t where
  dup := by rw [dupEntry_of (moved.same .dup (by decide)), h.dup]
  dups k other := by rw [dupEntry_of (moved.same .dup (by decide)), h.dups k other]
  unheard no := (h.unheard no).trans (moved.mono (by decide))
  heard run i r here station first := by
    have changes : t.changes = m.changes := moved.same .changes (by decide)
    obtain ⟨part, others, present, absent, there⟩ := h.heard run i r here station first
    rw [← show t.peers = m.peers from moved.same .peers (by decide)] at part others
    exact ⟨part, others, fun p => (present p).trans (moved.mono (by decide)),
      fun p q => entryMade_congr rfl rfl changes (absent p q),
      fun p q => noPresenceEntry_congr rfl changes (there p q)⟩
  touches := h.touches.trans (moved.mono (by decide))

end

/-- R6, R29, R38: a MARK is delivered. -/
structure MarkTaken (L : Lane) (f : Octets) (s t : State) : Prop where
  clock : t.clock = s.clock
  lane : t.forwarder L = countedDelivered (s.forwarder L)
  other : t.forwarder L.other = s.forwarder L.other
  effects : MarkEffects L f s t

/-- R22, R29: the state on which the kind of a delivered frame is judged: the copy counted, its source's age restarted. -/
def agedState (L : Lane) (f : Octets) (s : State) : State :=
  (s.countLane L fun c => { c with framesDelivered := bump c.framesDelivered }).setDup (frameSource f)
    ((s.dupEntry (frameSource f)).map fun x => { x with age := s.after 2000000 })

theorem agedState_touches (L : Lane) (f : Octets) (s : State) : Touches [.lanes, .dup] s (agedState L f s) :=
  ((countLane_touches s L _).mono (by decide)).trans ((setDup_touches _ _ _).mono (by decide))

theorem agedState_forwarder (L M : Lane) (f : Octets) (s : State) :
    (agedState L f s).forwarder M = if M = L then countedDelivered (s.forwarder L) else s.forwarder M := by
  rw [State.forwarder, agedState, (setDup_touches _ _ _).same .lanes (by decide)]
  split
  · rename_i same
    rw [same]
    exact countLane_fw s L _
  · rename_i other
    rw [lane_eq_other other]
    exact countLane_other s L _

theorem deliver_mark {L : Lane} {f : Octets} {s : State} (high : s.rstLow = false) (wellFormed : malformed f = false)
    (mark : oct f 0 = 2) : MarkTaken L f s (deliver L f s) := by
  have place := source_of_wellFormed wellFormed
  have aged := agedState_touches L f s
  have peers : (agedState L f s).peers = s.peers := aged.same .peers (by decide)
  have changes : s.changes = (agedState L f s).changes := (aged.same .changes (by decide)).symm
  have now : (agedState L f s).now = s.now := congrArg Clock.time (aged.same .clock (by decide))
  obtain ⟨unheard, heard⟩ := (deliver_spec L f s wellFormed high).1 mark
  have rest : Touches [.peers, .ports, .changes, .tieBreak] (agedState L f s) (deliver L f s) := by
    by_cases run : oct (frameBody f) 4 = 3
    · cases known : s.peerIndex (frameSource f) with
      | none =>
        have unknown : ∀ r ∈ s.peers, r.station ≠ frameSource f := by
          simpa [State.peerIndex, List.findIdx?_eq_none_iff] using known
        rw [unheard (.inr unknown)]
        exact .refl _ _
      | some i =>
        obtain ⟨r, here, station, first⟩ := peerIndex_spec known
        rw [heard run i r here station first]
        exact peerMark_touches i L (frameHop f) _
    · rw [unheard (.inl run)]
      exact .refl _ _
  have lanes : ∀ M, (deliver L f s).forwarder M = (agedState L f s).forwarder M := fun M => by
    rw [State.forwarder, rest.same .lanes (by decide), State.forwarder]
  have dup : ∀ m, (deliver L f s).dupEntry m = (agedState L f s).dupEntry m := dupEntry_of (rest.same .dup (by decide))
  refine ⟨(rest.same .clock (by decide)).trans (aged.same .clock (by decide)), ?_, ?_, ?_, ?_, fun no => ?_,
    fun run i r here station first => ?_, (aged.mono (by decide)).trans (rest.mono (by decide))⟩
  · rw [lanes, agedState_forwarder, if_pos rfl]
  · rw [lanes, agedState_forwarder, if_neg (lane_other_ne L)]
  · rw [dup]
    exact dup_set _ _ _ place
  · intro m other
    rw [dup]
    exact dupEntry_setDup_other other _ _
  · rw [unheard no]
    exact aged.mono (by decide)
  · have eq := heard run i r here station first
    obtain ⟨part, others, present, absent, there, -, -⟩ := peerMarkHeard i L (frameHop f) (agedState L f s) r (by rwa [peers])
    rw [after_of_now now] at part
    rw [eq]
    exact ⟨part, by rwa [peers] at others, fun p => (aged.mono (by decide)).trans ((present p).mono (by decide)),
      fun p q => entryMade_congr changes now.symm rfl (absent p q),
      fun p q => noPresenceEntry_congr changes rfl (there p q)⟩

/-! ### Every arrival (O18) -/

/-- Settledness is a matter of egress and queues alone. -/
theorem settled_of_queues {s t : State} (h : ∀ M, (t.forwarder M).egress = (s.forwarder M).egress ∧
    (t.forwarder M).transit = (s.forwarder M).transit ∧ (t.forwarder M).localQ = (s.forwarder M).localQ)
    (settled : Settled s) : Settled t := by
  intro M idle
  obtain ⟨egress, transit, localQ⟩ := h M
  rw [egress] at idle
  rw [transit, localQ]
  exact settled M idle

/-- R2, R4: a frame that has passed its check, as the free order of its delivery and its forwarding finds it. -/
def received (L : Lane) (f : Octets) (s : State) (choices : List Nat) : State :=
  { counted L f s with tieBreak := choices }

theorem tieBreak_touches (s : State) (choices : List Nat) : Touches [.tieBreak] s { s with tieBreak := choices } := by
  intro x hx
  cases x <;> first | rfl | simp at hx

section
variable (L : Lane) (f : Octets) (s : State) (choices : List Nat)

theorem received_moved : Touches [.lanes, .clock, .tieBreak] s (received L f s choices) :=
  ((counted_touches L f s).mono (by decide)).trans ((tieBreak_touches _ choices).mono (by decide))

theorem received_clock : (received L f s choices).clock = s.clock := (counted_touches L f s).same .clock (by decide)

theorem received_now : (received L f s choices).now = s.now := congrArg Clock.time (received_clock L f s choices)

theorem received_other : (received L f s choices).forwarder L.other = s.forwarder L.other := counted_other L f s

end

section
variable {L : Lane} {f : Octets} {s : State} {n : Nat}

theorem received_forwarder (wellFormed : malformed f = false) (choices : List Nat) :
    (received L f s choices).forwarder L = { s.forwarder L with counts := { (s.forwarder L).counts with
      framesReceived := bump (s.forwarder L).counts.framesReceived } } := by
  show (counted L f s).forwarder L = _
  rw [counted_wellFormed wellFormed, countLane_fw]

theorem received_settled (L : Lane) (f : Octets) {s : State} (choices : List Nat) (h : Settled s) :
    Settled (received L f s choices) :=
  settled_of_lanes (s := counted L f s) rfl (counted_settled L f s h)

theorem counted_high (high : s.rstLow = false) : (counted L f s).rstLow = false :=
  ((counted_touches L f s).same .rstLow (by decide)).trans high

theorem received_high {choices : List Nat} (high : s.rstLow = false) : (received L f s choices).rstLow = false :=
  counted_high (L := L) (f := f) high

theorem joinTransit_high {copy : Octets} (high : s.rstLow = false) : (joinTransit L copy s).rstLow = false :=
  ((joinTransit_touches L copy s).same .rstLow (by decide)).trans high

/-- R7, R9: a well-formed frame of another station that is delivered is forwarded as well when it is addressed to 63 with
a hop left, before or after. -/
theorem arrive_delivered (number : s.ctl.number = some n) (station : s.ctl.station = .quiet ∨ s.ctl.station = .run)
    (passes : checkPasses f = true) (wellFormed : malformed f = false) (foreign : frameSource f ≠ n)
    (dest : frameDest f = n ∨ frameDest f = 63) :
    ((frameDest f = n ∨ frameHop f = 0) ∧ arrive L f s = deliver L f (counted L f s)) ∨
    (frameDest f ≠ n ∧ 1 ≤ frameHop f ∧ ∃ choices,
      arrive L f s = deliver L f (joinTransit L (forwardedCopy f) (received L f s choices)) ∨
      arrive L f s = joinTransit L (forwardedCopy f) (deliver L f (received L f s choices))) := by
  have delivered : delivers n f (counted L f s) = true := delivers_iff.2 ⟨by rwa [counted_ctl], wellFormed, dest⟩
  rw [arrive_pass L f s passes, judgeFrame_foreign (by rwa [counted_ctl]) foreign, passFrame, if_pos delivered]
  by_cases past : frameDest f ≠ n ∧ 1 ≤ frameHop f
  · rw [if_pos (forwards_iff.2 past)]
    obtain ⟨choices, order⟩ := inEitherOrder_spec (counted L f s) (forwardFrame L f) (deliver L f)
    exact .inr ⟨past.1, past.2, choices, order⟩
  · rw [if_neg fun h => past (forwards_iff.1 h)]
    refine .inl ⟨?_, rfl⟩
    by_cases here : frameDest f = n
    · exact .inl here
    · exact .inr (by have := fun h => past ⟨here, h⟩; omega)

end

/-- R7, R8, R29, R38: a MARK addressed to 63 is delivered and forwarded. -/
structure MarkPassed (L : Lane) (f : Octets) (s t : State) : Prop where
  joined : Forwarded (forwardedCopy f) (countedDelivered (s.forwarder L)) (t.forwarder L)
  left : t.clock.sendLeft.get L =
    if (s.forwarder L).egress = .idle then (forwardedCopy f).length * 2 else s.clock.sendLeft.get L
  other : t.forwarder L.other = s.forwarder L.other
  otherLeft : t.clock.sendLeft.get L.other = s.clock.sendLeft.get L.other
  clock : t.clock = { s.clock with sendLeft := t.clock.sendLeft }
  effects : MarkEffects L f s t

section
variable {L : Lane} {f : Octets} {s m t : State}

theorem deliver_forward (settled : Settled s) (taken : MarkTaken L f s m) :
    MarkPassed L f s (joinTransit L (forwardedCopy f) m) := by
  have settled' : Settled m := settled_of_queues (fun M => by
    by_cases same : M = L
    · rw [same, taken.lane]
      exact ⟨rfl, rfl, rfl⟩
    · rw [lane_eq_other same, taken.other]
      exact ⟨rfl, rfl, rfl⟩) settled
  obtain ⟨joined, left, other, otherLeft, clock, touched⟩ := joinTransit_spec (forwardedCopy f) L m settled'
  rw [taken.lane] at joined left
  rw [taken.clock] at left otherLeft clock
  exact ⟨joined, left, other.trans taken.other, otherLeft, clock, taken.effects.after touched⟩

theorem forward_deliver (settled : Settled s) (taken : MarkTaken L f (joinTransit L (forwardedCopy f) s) t) :
    MarkPassed L f s t := by
  obtain ⟨joined, left, other, otherLeft, clock, touched⟩ := joinTransit_spec (forwardedCopy f) L s settled
  have now : (joinTransit L (forwardedCopy f) s).now = s.now := by rw [State.now, clock, State.now]
  refine ⟨?_, by rw [taken.clock, left], taken.other.trans other, by rw [taken.clock, otherLeft],
    by rw [taken.clock]; exact clock, taken.effects.before (touched.mono (by decide)) now⟩
  rw [taken.lane]
  exact forwarded_countedDelivered joined

end

/-- Settles O18 (R2 to R9, R15, R18, R22, R29, R38). -/
theorem arrivalDecided : Obligations.ArrivalDecided := by
  refine ⟨fun L f s high fails => ?_, fun L f s high passes own plain => ?_,
    fun L f s high settled passes foreign beyond undelivered => ?_,
    fun L f s n high number passes foreign here undelivered => ?_,
    fun L f s n high settled number station passes wellFormed foreign dest mark => ?_,
    fun L copy s settled => joinTransit_spec copy L s settled⟩
  · intro l
    refine ⟨_, exec_arrival high L f, ?_⟩
    rw [arrive, if_neg (by rw [fails]; decide)]
    refine ⟨?_, ?_, (countLane_touches s L _).trans (countLane_touches _ L _)⟩
    · rw [countLane_fw, countLane_fw]
    · rw [countLane_other, countLane_other]
  · intro l
    refine ⟨_, exec_arrival high L f, ?_⟩
    have strips : judgeFrame L f (counted L f s) = (counted L f s).countLane L fun c => { c with stripped := bump c.stripped } := by
      rw [judgeFrame_own (by rw [counted_ctl]; exact own)]
      refine if_neg ?_
      rw [counted_ctl]
      rcases plain with other | bad | outside
      · simp [FrameKind.code, show ¬oct f 0 = 2#8 from other]
      · simp [bad]
      · simp [outside]
    rw [arrive_pass L f s passes, strips]
    refine ⟨?_, ?_, (counted_touches L f s).trans (countLane_touches _ L _)⟩
    · rw [countLane_fw, counted_fw]
    · rw [countLane_other, counted_other]
  · intro l counted'
    refine ⟨_, exec_arrival high L f, ?_⟩
    have lane : (counted L f s).forwarder L = counted' := counted_fw L f s
    rw [arrive_pass L f s passes, judgeFrame_passing (by rwa [counted_ctl]) (by rwa [counted_ctl]) (by rwa [counted_ctl])]
    obtain ⟨joined, left, other, otherLeft, clock, touched⟩ := joinTransit_spec (forwardedCopy f) L (counted L f s)
      (counted_settled L f s settled)
    have clock0 : (counted L f s).clock = s.clock := (counted_touches L f s).same .clock (by decide)
    rw [lane] at joined left
    rw [clock0] at left otherLeft clock
    refine ⟨fun hop => ?_, fun zero => ?_, ?_⟩
    · rw [if_pos hop]
      exact ⟨joined, ((counted_touches L f s).mono (by decide)).trans touched, clock, left, otherLeft⟩
    · rw [if_neg (by omega)]
      refine ⟨?_, (counted_touches L f s).trans (countLane_touches _ L _)⟩
      rw [expireHop, countLane_fw, lane]
    · split
      · exact other.trans (counted_other L f s)
      · exact (countLane_other _ L _).trans (counted_other L f s)
  · intro l
    refine ⟨_, exec_arrival high L f, ?_⟩
    have stays : delivers n f (counted L f s) = false := by
      rw [Bool.eq_false_iff, Ne, delivers_iff, counted_ctl]
      rintro ⟨station, wellFormed, -⟩
      rcases undelivered with bad | ⟨notQuiet, notRun⟩
      · rw [bad] at wellFormed; cases wellFormed
      · exact station.elim notQuiet notRun
    have ends : forwards n f = false := by
      rw [Bool.eq_false_iff, Ne, forwards_iff]
      exact fun h => h.1 here
    rw [arrive_pass L f s passes, judgeFrame_foreign (by rwa [counted_ctl]) foreign, passFrame_undelivered stays, ends]
    by_cases zero : frameHop f = 0
    · rw [if_neg (by decide), if_pos zero, expireHop]
      refine ⟨?_, (countLane_other _ L _).trans (counted_other L f s),
        (counted_touches L f s).trans (countLane_touches _ L _)⟩
      rw [countLane_fw, counted_fw, if_pos zero]
    · rw [if_neg (by decide), if_neg zero]
      refine ⟨?_, counted_other L f s, counted_touches L f s⟩
      rw [counted_fw, if_neg zero]
  · intro l src delivered
    have lane : ∀ choices, countedDelivered ((received L f s choices).forwarder L) = delivered := fun choices => by
      rw [received_forwarder wellFormed]
      rfl
    refine ⟨_, exec_arrival high L f, ?_⟩
    rcases arrive_delivered number station passes wellFormed foreign dest with ⟨stays, eq⟩ | ⟨past, hop, choices, eq⟩
    · have taken : MarkTaken L f (counted L f s) (arrive L f s) := eq ▸ deliver_mark (L := L) (counted_high high) wellFormed mark
      have effects := taken.effects.before ((counted_touches L f s).mono (by decide))
        (congrArg Clock.time ((counted_touches L f s).same .clock (by decide)))
      have clock : (arrive L f s).clock = s.clock := taken.clock.trans ((counted_touches L f s).same .clock (by decide))
      refine ⟨fun past hop => ?_, fun _ => ⟨taken.lane.trans (lane s.tieBreak), clock⟩,
        taken.other.trans (counted_other L f s), by rw [clock], by rw [clock], effects.dup, effects.dups, effects.unheard,
        effects.heard, effects.touches⟩
      rcases stays with same | zero
      · exact absurd same past
      · omega
    · have passed : MarkPassed L f (received L f s choices) (arrive L f s) := by
        have settled' := received_settled L f choices settled
        rcases eq with eq | eq
        · exact eq ▸ forward_deliver settled' (deliver_mark (joinTransit_high (received_high high)) wellFormed mark)
        · exact eq ▸ deliver_forward settled' (deliver_mark (received_high high) wellFormed mark)
      have effects := passed.effects.before (received_moved L f s choices) (received_now L f s choices)
      have clock0 := received_clock L f s choices
      have joined := passed.joined
      have left := passed.left
      rw [lane] at joined
      rw [received_forwarder wellFormed, clock0] at left
      refine ⟨fun _ _ => ⟨joined, left⟩, fun stays => ?_, passed.other.trans (received_other L f s choices),
        passed.otherLeft.trans (by rw [clock0]), passed.clock.trans (by rw [clock0]), effects.dup, effects.dups,
        effects.unheard, effects.heard, effects.touches⟩
      rcases stays with same | zero
      · exact absurd same past
      · omega

end Sys2Proof.Machine
end

section
/-! Delivery to the window and the units, and the own MARKs that return (chapter 2). -/

namespace Sys2Proof.Machine

open Sys2Proof.Safety

/-! ### Frames delivered to their unit (O20) -/

/-- R25: a delivered frame's kind and query leave one next state. -/
theorem dispatched_unique {L : Lane} {f : Octets} {s t u : State} (wellFormed : malformed f = false)
    (h : Dispatched L f s t) (k : Dispatched L f s u) : t = u := by
  obtain ⟨kind, -, code⟩ := kind_of_wellFormed wellFormed
  unfold Dispatched at h k
  rw [code] at h k
  cases kind with
  | qry => exact Host.Outcome.next.inj (h.symm.trans k)
  | _ => exact Eq.trans h (Eq.symm k)

theorem agedState_dupEntry {f : Octets} (wellFormed : malformed f = false) (L : Lane) (s : State) :
    (agedState L f s).dupEntry (frameSource f) =
      (s.dupEntry (frameSource f)).map fun x => { x with age := s.after 2000000 } :=
  dup_set _ _ _ (source_of_wellFormed wellFormed)

/-- R22: a delivered copy has been counted on its lane and its source's age restarted. -/
theorem aged_counted {L : Lane} {f : Octets} {s : State} (wellFormed : malformed f = false) :
    (agedState L f (counted L f s)).dupEntry (frameSource f) =
      (s.dupEntry (frameSource f)).map (fun x => { x with age := s.after 2000000 }) ∧
    (agedState L f (counted L f s)).forwarder L = { s.forwarder L with counts := { (s.forwarder L).counts with
      framesReceived := bump (s.forwarder L).counts.framesReceived
      framesDelivered := bump (s.forwarder L).counts.framesDelivered } } ∧
    (agedState L f (counted L f s)).forwarder L.other = s.forwarder L.other ∧
    Touches [.lanes, .dup] s (agedState L f (counted L f s)) := by
  have touched := counted_touches L f s
  refine ⟨?_, ?_, ?_, (touched.mono (by decide)).trans (agedState_touches L f _)⟩
  · rw [agedState_dupEntry wellFormed, dupEntry_of (touched.same .dup (by decide)),
      after_of_now (congrArg Clock.time (touched.same .clock (by decide)))]
  · rw [agedState_forwarder, if_pos rfl, counted_wellFormed wellFormed, countLane_fw]
    rfl
  · rw [agedState_forwarder, if_neg (lane_other_ne L), counted_other]

/-- R25: what an accepted copy's unit can change, a RESTART query aside. -/
theorem dispatched_touches {L : Lane} {f : Octets} {s t : State} (high : s.rstLow = false) (run : s.ctl.station = .run)
    (wellFormed : malformed f = false) (notMark : oct f 0 ≠ 2) (notRestart : oct f 0 = 7 → oct (frameBody f) 0 ≠ 10)
    (h : Dispatched L f s t) : Touches unitParts s t := by
  rw [dispatched_unique wellFormed h (dispatch_spec L f s wellFormed notMark high run)]
  exact dispatch_touches L f s notRestart

/-- R6, R7: a well-formed frame of another station, addressed to this one, is delivered. -/
theorem arrive_here {L : Lane} {f : Octets} {s : State} {n : Nat} (number : s.ctl.number = some n)
    (station : s.ctl.station = .quiet ∨ s.ctl.station = .run) (passes : checkPasses f = true)
    (wellFormed : malformed f = false) (foreign : frameSource f ≠ n) (dest : frameDest f = n) :
    arrive L f s = deliver L f (counted L f s) := by
  rcases arrive_delivered (L := L) number station passes wellFormed foreign (.inl dest) with ⟨-, eq⟩ | ⟨past, -⟩
  · exact eq
  · exact absurd dest past

theorem laneDrops_counted (L : Lane) (f : Octets) (s : State) : LaneDrops L f (counted L f s) ↔ LaneDrops L f s := by
  have touched := counted_touches L f s
  have port : ∀ p, (counted L f s).port p = s.port p := State.port_of_ports (touched.same .ports (by decide))
  have setting : ∀ p, (counted L f s).setting p = s.setting p := fun p => by
    rw [State.setting, touched.same .image (by decide), State.setting]
  simp only [LaneDrops, counted_ctl, port, setting]

/-- A counter of the station replaced. -/
theorem stats_touches (s : State) (c : StationCounters) : Touches [.stats] s { s with stats := c } := by
  intro x hx
  cases x <;> first | rfl | simp at hx

/-- R28 to R30: the copy of a frame that meets its source's window. -/
structure WindowMet (L : Lane) (f : Octets) (s t : State) : Prop where
  duplicate : judgeSequence (s.dupEntry (frameSource f)) (frameSeq f) = .duplicate →
    t = { agedState L f s with stats := { s.stats with duplicateDiscards := bump s.stats.duplicateDiscards } }
  stale : judgeSequence (s.dupEntry (frameSource f)) (frameSeq f) = .stale →
    t = { agedState L f s with stats := { s.stats with staleDiscards := bump s.stats.staleDiscards } }
  accepted : ∀ front w, judgeSequence (s.dupEntry (frameSource f)) (frameSeq f) = .accepted front w →
    let known := (agedState L f s).setDup (frameSource f) (some ⟨front, w, s.after 2000000⟩)
    (s.ctl.station = .run → Dispatched L f known t) ∧ (s.ctl.station ≠ .run → t = known)

theorem deliver_window {L : Lane} {f : Octets} {s : State} (high : s.rstLow = false) (wellFormed : malformed f = false)
    (notMark : oct f 0 ≠ 2) (notDropped : ¬LaneDrops L f s) : WindowMet L f s (deliver L f s) := by
  have judged := ((deliver_spec L f s wellFormed high).2 notMark).2 notDropped
  refine ⟨fun verdict => ?_, fun verdict => ?_, fun front w verdict => ?_⟩
  all_goals
    rw [verdict] at judged
    exact judged

/-- Settles O20 (R6, R7, R22 to R25, R28 to R30, R90, R103, R156). -/
theorem deliveryFilter_rule : Obligations.DeliveryFilter := by
  refine ⟨fun L f s n high number station passes wellFormed foreign dest notMark notDropped => ?_,
    fun L f s n p high number run passes wellFormed foreign dest trib place enabled source port current => ?_,
    fun L f s n high number station passes wellFormed foreign dest => ?_⟩
  · intro l e delivered discards
    obtain ⟨dup, lane, other, touched⟩ := aged_counted (L := L) (s := s) wellFormed
    have stats : (counted L f s).stats = s.stats := (counted_touches L f s).same .stats (by decide)
    have entry : (counted L f s).dupEntry (frameSource f) = e := dupEntry_of ((counted_touches L f s).same .dup (by decide)) _
    have after : (counted L f s).after 2000000 = s.after 2000000 :=
      after_of_now (congrArg Clock.time ((counted_touches L f s).same .clock (by decide))) _
    have met := deliver_window (counted_high high) wellFormed notMark (mt (laneDrops_counted L f s).1 notDropped)
    refine ⟨_, exec_arrival high L f, ?_⟩
    rw [arrive_here number station passes wellFormed foreign dest]
    have discarded : ∀ c, discards c { agedState L f (counted L f s) with stats := c } := fun c =>
      ⟨rfl, dup, lane, other, (touched.mono (by decide)).trans ((stats_touches _ c).mono (by decide))⟩
    refine ⟨fun verdict => ?_, fun verdict => ?_, fun front w verdict => ?_⟩
    · rw [met.duplicate (by rw [entry]; exact verdict), stats]
      exact discarded _
    · rw [met.stale (by rw [entry]; exact verdict), stats]
      exact discarded _
    · obtain ⟨inRun, outside⟩ := met.accepted front w (by rw [entry]; exact verdict)
      rw [counted_ctl, after] at inRun outside
      have remembered := setDup_touches (agedState L f (counted L f s)) (frameSource f) (some ⟨front, w, s.after 2000000⟩)
      have known := dup_set (agedState L f (counted L f s)) (frameSource f) (some ⟨front, w, s.after 2000000⟩)
        (source_of_wellFormed wellFormed)
      refine ⟨fun notRestart => ?_, fun quiet => ?_⟩
      · rcases station with quiet | run
        · rw [outside (by rw [quiet]; decide)]
          exact known
        · have moved := (touched.mono (Q := [.lanes, .dup]) (by decide)).trans (remembered.mono (by decide))
          have unit := dispatched_touches ((moved.same .rstLow (by decide)).trans high)
            ((congrArg Controller.station (moved.same .ctl (by decide))).trans run) wellFormed notMark notRestart (inRun run)
          rw [dupEntry_of (unit.same .dup (by decide))]
          exact known
      · rw [outside (by rw [quiet]; decide)]
        refine ⟨?_, ?_, touched.trans (remembered.mono (by decide))⟩
        · rw [State.forwarder, remembered.same .lanes (by decide)]
          exact lane
        · rw [State.forwarder, remembered.same .lanes (by decide)]
          exact other
  · intro l
    obtain ⟨dup, lane, other, touched⟩ := aged_counted (L := L) (s := s) wellFormed
    have drops : LaneDrops L f s := by
      subst place
      exact ⟨run, trib, enabled, source, port, current⟩
    have notMark : oct f 0 ≠ 2 := by
      rw [trib]
      decide
    have dropped := ((deliver_spec L f (counted L f s) wellFormed (counted_high high)).2 notMark).1
      ((laneDrops_counted L f s).2 drops)
    refine ⟨_, exec_arrival high L f, ?_⟩
    rw [arrive_here number (.inr run) passes wellFormed foreign dest]
    have ports := State.port_of_ports (touched.same .ports (by decide))
    rw [show deliver L f (counted L f s) = otherLaneCell (tribDestPort (frameBody f)) (agedState L f (counted L f s))
      from dropped, ← place]
    have marked : Touches [.ports] _ (otherLaneCell p (agedState L f (counted L f s))) := modPort_touches _ p _
    refine ⟨?_, fun q other => ?_, ?_, ?_, ?_, (touched.mono (by decide)).trans (marked.mono (by decide))⟩
    · rw [otherLaneCell, State.port_modPort_same, ports]
    · rw [otherLaneCell, State.port_modPort_other _ _ _ _ other, ports]
    · rw [dupEntry_of (marked.same .dup (by decide))]
      exact dup
    · exact lane
    · exact other
  · have same : ∀ choices, received L f s choices =
        { s.countLane L (fun c => { c with framesReceived := bump c.framesReceived }) with tieBreak := choices } :=
      fun choices => by rw [received, counted_wellFormed wellFormed]
    have delivered : ∀ choices, Delivered L f (received L f s choices) (deliver L f (received L f s choices)) :=
      fun choices => deliver_spec L f _ wellFormed (received_high high)
    rcases arrive_delivered (s := s) (L := L) number station passes wellFormed foreign dest with
      ⟨stays, eq⟩ | ⟨past, hop, choices, order⟩
    · refine ⟨_, s.tieBreak, exec_arrival high L f, fun _ => ⟨rfl, ?_⟩, fun past hop => ?_⟩
      · rw [← same, eq]
        have untouched : received L f s s.tieBreak = counted L f s := by
          rw [same, counted_wellFormed wellFormed]
          rfl
        rw [untouched]
        exact deliver_spec L f _ wellFormed (counted_high high)
      · rcases stays with here | zero
        · exact absurd here past
        · omega
    · refine ⟨_, choices, exec_arrival high L f, fun stays => ?_, fun _ _ => ?_⟩
      · rcases stays with here | zero
        · exact absurd here past
        · omega
      · rw [← same]
        rcases order with eq | eq
        · exact .inr (eq ▸ deliver_spec L f _ wellFormed (joinTransit_high (received_high high)))
        · exact .inl ⟨_, delivered choices, eq⟩

/-! ### MARKs originated and returned (O21) -/

/-- R5: a well-formed own MARK is stripped, and judged in QUIET and RUN. -/
theorem arrive_ownMark {L : Lane} {f : Octets} {s : State} (passes : checkPasses f = true)
    (wellFormed : malformed f = false) (own : s.ctl.number = some (frameSource f))
    (station : s.ctl.station = .run ∨ s.ctl.station = .quiet) (mark : oct f 0 = 2) :
    arrive L f s = markReturn L (frameHop f) (rd32 (frameBody f) 0)
      ((counted L f s).countLane L fun c => { c with stripped := bump c.stripped }) := by
  rw [arrive_pass L f s passes, judgeFrame_own (by rwa [counted_ctl])]
  refine if_pos ?_
  rw [counted_ctl, mark, wellFormed]
  rcases station with h | h <;> rw [h] <;> rfl

/-- R4, R5: the lane's counters after a well-formed own frame has been stripped. -/
theorem stripped_lane {L : Lane} {f : Octets} {s : State} (wellFormed : malformed f = false) :
    let t := (counted L f s).countLane L fun c => { c with stripped := bump c.stripped }
    t.forwarder L = { s.forwarder L with counts := { (s.forwarder L).counts with
      framesReceived := bump (s.forwarder L).counts.framesReceived, stripped := bump (s.forwarder L).counts.stripped } } ∧
    t.forwarder L.other = s.forwarder L.other ∧ Touches [.lanes] s t := by
  refine ⟨?_, ?_, (counted_touches L f s).trans (countLane_touches _ L _)⟩
  · rw [counted_wellFormed wellFormed, countLane_fw, countLane_fw]
  · rw [countLane_other, counted_other]

/-- R32: an own MARK that returns in RUN with the station's own value. -/
theorem markReturn_run {L : Lane} {hop : Nat} {s : State} (run : s.ctl.station = .run) :
    let t := markReturn L hop s.image.instanceValue s
    t.mark L = ⟨.closed, some (64 - hop), some (s.after 300000)⟩ ∧ t.mark L.other = s.mark L.other ∧
    t.changes = (if (s.mark L).state = .opened then withEntry s.now (.laneClosed L (64 - hop)) s.changes
      else s.changes) ∧ Touches [.marks, .changes] s t := by
  intro t
  have eq : t = if ((s.mark L).state == .opened) = true then
      (s.modMark L fun _ => ⟨.closed, some (64 - hop), some (s.after 300000)⟩).pushChange (.laneClosed L (64 - hop))
      else s.modMark L fun _ => ⟨.closed, some (64 - hop), some (s.after 300000)⟩ :=
    (if_pos rfl).trans (if_pos (by rw [run]; rfl))
  by_cases opened : (s.mark L).state = .opened
  · rw [if_pos (by simpa using opened)] at eq
    rw [eq, if_pos opened]
    exact ⟨(mark_pushChange _ _ L).trans (mark_modMark_same s L _), (mark_pushChange _ _ _).trans (mark_modMark_other s L _),
      pushChange_changes _ _, ((modMark_touches s L _).mono (by decide)).trans ((pushChange_touches _ _).mono (by decide))⟩
  · rw [if_neg (by simpa using opened)] at eq
    rw [eq, if_neg opened]
    exact ⟨mark_modMark_same s L _, mark_modMark_other s L _, rfl, (modMark_touches s L _).mono (by decide)⟩

theorem markReturn_quiet {L : Lane} {hop : Nat} {s : State} (quiet : s.ctl.station = .quiet) :
    markReturn L hop s.image.instanceValue s = s :=
  (if_pos rfl).trans (if_neg (by rw [quiet]; decide))

/-- Settles O21 (R5, R31, R32). -/
theorem ownMarks : Obligations.OwnMarks := by
  refine ⟨fun s u high run settled timer due => ?_, fun L f s high passes wellFormed own station mark value => ?_⟩
  · refine ⟨originateMark { s with markTimer := some (u + 100000) }, ?_, ?_⟩
    · show execMarkPeriodExpiry s = _
      rw [execMarkPeriodExpiry, running_high high]
      simp only [timer, reach_expired due]
      rfl
    · exact originate_originates (s := { s with markTimer := some (u + 100000) }) run (settled_of_lanes rfl settled)
        (by decide) (by decide) 63 _
  · intro l
    obtain ⟨lane, other, touched⟩ := stripped_lane (L := L) (s := s) wellFormed
    have quietOrRun := congrArg Controller.station (touched.same .ctl (by decide))
    have image := congrArg Image.instanceValue (touched.same .image (by decide))
    refine ⟨_, exec_arrival high L f, ?_⟩
    rw [arrive_ownMark passes wellFormed own station mark, value, ← image]
    generalize (counted L f s).countLane L (fun c => { c with stripped := bump c.stripped }) = m at *
    have marks : ∀ M, m.mark M = s.mark M := fun M => by rw [State.mark, touched.same .marks (by decide), State.mark]
    have now : m.now = s.now := congrArg Clock.time (touched.same .clock (by decide))
    rcases station with run | quiet
    · obtain ⟨here, there, changes, returned⟩ := markReturn_run (L := L) (hop := frameHop f) (quietOrRun.trans run)
      rw [after_of_now now] at here
      rw [marks] at there changes
      rw [now, touched.same .changes (by decide)] at changes
      have lanes := State.forwarder_of_lanes (returned.same .lanes (by decide))
      exact ⟨(lanes L).trans lane, (lanes L.other).trans other,
        fun _ => ⟨here, there, changes, (touched.mono (by decide)).trans (returned.mono (by decide))⟩,
        fun quiet => (by rw [run] at quiet; cases quiet)⟩
    · rw [markReturn_quiet (quietOrRun.trans quiet)]
      exact ⟨lane, other, fun run => (by rw [quiet] at run; cases run), fun _ => touched⟩

/-! ### CLASH (O22) -/

theorem clashReady_forwarder (s : State) (L : Lane) :
    (clashReady s).forwarder L = { s.forwarder L with localQ := [] } := by
  simp [clashReady, State.forwarder]

theorem clashReady_cmd (s : State) (k : Fin 4) : (clashReady s).cmd k = (s.cmd k).restarted :=
  State.cmd_mapCmds _ _ k

theorem clashReady_port (s : State) (p : Fin 8) : (clashReady s).port p = s.port p := port_mapCmds _ _ p

/-- R100 to R103: what CLASH makes of a circuit that is not OFF. -/
theorem clashCircuit_values (p : Fin 8) (s : State) :
    let q := s.port p
    let q' := (clashCircuit p s).port p
    q'.circuit.state = .wait ∧ q'.circuit.loop = .none ∧ q'.circuit.revert = none ∧
    q'.circuit.current = q.circuit.current ∧ q'.asm.running = false ∧ q'.asm.cell = none ∧ q'.counts = q.counts ∧
    (q.circuit.state ≠ .wait → q'.engine.position = none ∧ q'.engine.fill = 0) ∧ q'.tx = q.tx ∧ q'.rx = q.rx ∧
    q'.clk = (if q.circuit.state = .play then { q.clk with held := q.clk.integrator } else q.clk) := by
  intro q q'
  have eq : q' = _ := clashCircuit_port p s
  rw [eq]
  cases h : (s.port p).circuit.state <;> simp [q, h, Port.enterEmpty, Engine.emptied, Engine.reset, ClockLoop.save]

theorem clashReady_touches (s : State) : Touches [.ctl, .lanes, .markTimer, .echoTimer, .cmds] s (clashReady s) := by
  intro x hx
  cases x <;> first | rfl | simp at hx

/-- R100 to R103, R177: what the entry to CLASH leaves of each block. -/
theorem enterClash_spec (s : State) :
    let t := enterClash s
    t.ctl = { s.ctl with station := .clash, quiet := none } ∧ Grows s t ∧
    (∀ M : Lane, t.forwarder M = { s.forwarder M with localQ := [] }) ∧
    (∀ p : Fin 8, (s.port p).enabled = true → t.port p = (clashCircuit p s).port p) ∧
    (∀ p : Fin 8, (s.port p).enabled = false → t.port p = s.port p) ∧
    (∀ k : Fin 4, t.cmd k = (s.cmd k).restarted) ∧
    Touches [.ctl, .lanes, .markTimer, .echoTimer, .ports, .cmds, .changes, .tieBreak] s t := by
  intro t
  have ready := clashReady_touches s
  obtain ⟨members, others, grows, touched⟩ := inSomeOrder_ports clashCircuit_local (clashReady s)
    (clashReady s).enabledPorts (enabledPorts_nodup _)
  have member : ∀ p, p ∈ (clashReady s).enabledPorts ↔ (s.port p).enabled = true := fun p => by
    rw [mem_enabledPorts, clashReady_port]
  have eq : t = _ := enterClash_eq s
  rw [← eq] at members others grows touched
  refine ⟨touched.same .ctl (by decide), Grows.trans (t := clashReady s) (.of_same rfl) grows, fun M => ?_, fun p enabled => ?_,
    fun p disabled => ?_, fun k => ?_, (ready.mono (by decide)).trans (touched.mono (by decide))⟩
  · rw [State.forwarder, touched.same .lanes (by decide)]
    exact clashReady_forwarder s M
  · rw [members p ((member p).2 enabled), clashCircuit_port, clashCircuit_port, clashReady_port]
  · rw [others p (by rw [member, disabled]; decide), clashReady_port]
  · rw [State.cmd, touched.same .cmds (by decide)]
    exact clashReady_cmd s k

/-- Settles O22 (R5, R21, R35, R46, R102, R113, R154, R177). -/
theorem foreignMarkClashes : Obligations.ForeignMarkClashes := by
  intro L f s high passes wellFormed own station mark foreign
  obtain ⟨lane, other, touched⟩ := stripped_lane (L := L) (s := s) wellFormed
  have image := congrArg Image.instanceValue (touched.same .image (by decide))
  refine ⟨_, exec_arrival high L f, ?_⟩
  rw [arrive_ownMark passes wellFormed own station.symm mark, markReturn, if_neg (by rw [image]; exact foreign)]
  generalize (counted L f s).countLane L (fun c => { c with stripped := bump c.stripped }) = m at *
  have entered := pushChange_touches m (.clash L (rd32 (frameBody f) 0))
  have before := (touched.mono (Q := [.lanes, .changes]) (by decide)).trans (entered.mono (by decide))
  have ports := State.port_of_ports (before.same .ports (by decide))
  obtain ⟨ctl, grows, lanes, enabled, disabled, cmds, changed⟩ :=
    enterClash_spec (m.pushChange (.clash L (rd32 (frameBody f) 0)))
  refine ⟨?_, ?_, fun M => ?_, fun p on => ?_, fun p off => ?_, fun k => ?_, (before.mono (by decide)).trans changed⟩
  · rw [ctl, before.same .ctl (by decide)]
  · exact EntryMade.of_push (touched.same .changes (by decide)) (touched.same .clock (by decide)) grows
  · have forwarder : (m.pushChange (.clash L (rd32 (frameBody f) 0))).forwarder M = m.forwarder M :=
      State.forwarder_of_lanes (entered.same .lanes (by decide)) M
    rw [lanes, forwarder]
    by_cases same : M = L
    · rw [same, lane]
      exact ⟨rfl, rfl, rfl⟩
    · rw [lane_eq_other same, other]
      exact ⟨rfl, rfl, rfl⟩
  · have values := clashCircuit_values p (m.pushChange (.clash L (rd32 (frameBody f) 0)))
    rw [← enabled p (by rwa [ports]), ports] at values
    exact values
  · rw [disabled p (by rwa [ports]), ports]
  · rw [cmds, State.cmd, before.same .cmds (by decide)]
    exact ⟨rfl, rfl, rfl, rfl, rfl⟩

end Sys2Proof.Machine
end

section
/-! Tributary ports (chapter 3): octets received, losses and station timing, and the bits that are gathered. -/

namespace Sys2Proof.Machine

open Sys2Proof.Safety

/-! ### A completed cell (R50, R51, R54, R55) -/

/-- R51: the port of an assembler that has completed a cell. -/
def completedPort (lost : Bool) (q : Port) : Port :=
  { q with
    asm := { q.asm with nextCount := q.asm.nextCount + 1 }
    counts := { q.counts with
      cellsAssembled := bump q.counts.cellsAssembled
      srcLostCells := if lost then bump q.counts.srcLostCells else q.counts.srcLostCells } }

/-- R51 to R55: a cell completed after a change `f` of its port that leaves its circuit and its next count. -/
theorem completeCell_after (p : Fin 8) (payload : Octets) (lost : Bool) (s : State) (f g : Port → Port)
    (count : (f (s.port p)).asm.nextCount = (s.port p).asm.nextCount) (circuit : (f (s.port p)).circuit = (s.port p).circuit)
    (same : g (s.port p) = completedPort lost (f (s.port p))) :
    let q := s.port p
    let r := s.setting p
    let t := completeCell p payload lost (s.modPort p f)
    (s.ctl.station = .run → Settled s → q.circuit.loop ≠ .loc →
      Originates [.A, .B] (ownFrame .trib (recFarStation r)
        (tribBody (recFarPort r) p.val (recClass r) lost q.circuit.current q.asm.nextCount payload) s) (s.modPort p g) t) ∧
    (q.circuit.loop = .loc → t = acceptCell p ⟨q.asm.nextCount, payload, lost, none⟩ (s.modPort p g)) := by
  intro q r t
  have done : (s.modPort p f).modPort p (completedPort lost) = s.modPort p g := by
    rw [modPort_modPort]
    exact modPort_congr s p same.symm
  have port : (s.modPort p f).port p = f q := State.port_modPort_same s p f
  have completed : t = if (q.circuit.loop == .loc) = true
      then acceptCell p ⟨q.asm.nextCount, payload, lost, none⟩ (s.modPort p g)
      else sendCell p q.asm.nextCount payload lost (s.modPort p g) := by
    rw [← done]
    show completeCell p payload lost (s.modPort p f) = _
    unfold completeCell
    rw [port, circuit, count]
    rfl
  refine ⟨fun run settled notLocal => ?_, fun loc => ?_⟩
  · rw [completed, if_neg (by simpa using notLocal)]
    have current : ((s.modPort p g).port p).circuit.current = q.circuit.current := by
      rw [State.port_modPort_same, same]
      exact congrArg Circuit.current circuit
    have sent := originate_originates (s := s.modPort p g) (k := .trib) (lanes := [.A, .B]) run
      (settled_of_lanes rfl settled) (by decide) (by decide) (recFarStation r)
      (tribBody (recFarPort r) p.val (recClass r) lost q.circuit.current q.asm.nextCount payload)
    rw [← current] at sent ⊢
    exact sent
  · rw [completed, if_pos (by simpa using loc)]

/-! ### The body of a TRIB (section 11.3) -/

theorem length_padTo (n : Nat) (o : Octets) : (padTo n o).length = max n o.length := by
  simp [padTo, zeros]
  omega

theorem oct_padTo (n : Nat) (o : Octets) (i : Nat) : oct (padTo n o) i = oct o i := by
  by_cases inside : i < o.length
  · exact oct_append_left o _ i inside
  · obtain ⟨k, rfl⟩ := Nat.exists_eq_add_of_le (Nat.not_lt.1 inside)
    rw [padTo, oct_append_right]
    simp [oct, zeros, List.getD_eq_getElem?_getD, List.getElem?_replicate]
    split <;> rfl

theorem oct_beyond (o : Octets) (i : Nat) (h : o.length ≤ i) : oct o i = 0 := by
  simp [oct, List.getD_eq_getElem?_getD, h]

theorem flags_read (lost : Bool) (mode : Option Lane) : (flagBit 7 lost ||| laneCode mode).getLsbD 7 = lost ∧
    (flagBit 7 lost ||| laneCode mode).setWidth 7 = (match mode with | none => 0 | some .A => 1 | some .B => 2) := by
  cases lost <;> rcases mode with _ | _ | _ <;> decide

theorem isTribBody (destPort srcPort : Nat) (cls : RateClass) (srcLost : Bool) (mode : Option Lane) (count : BitVec 16)
    (cell : Octets) :
    IsTribBody destPort srcPort cls srcLost mode count cell (tribBody destPort srcPort cls srcLost mode count cell) := by
  have header : ∀ i, oct (tribBody destPort srcPort cls srcLost mode count cell) i =
      oct ([be8 destPort, be8 srcPort, cls.code, flagBit 7 srcLost ||| laneCode mode] ++ (be16 count ++ cell)) i := fun i => by
    rw [tribBody, oct_padTo, List.append_assoc]
  refine ⟨?_, header 0, header 1, ?_, ?_, ?_, ?_, ?_, fun i behind => ?_⟩
  · rw [tribBody, length_padTo]
    simp [be16, Config.minBody]
    omega
  · rw [header 2]
    cases cls <;> rfl
  · rw [header 3]
    exact (flags_read srcLost mode).1
  · rw [header 3]
    exact (flags_read srcLost mode).2
  · rw [rd16, header 4, header 5]
    exact rd16_append _ cell 4 rfl count
  · simp [tribBody, padTo, be16]
  · rw [header i]
    exact oct_beyond _ _ (by simp [be16]; omega)

/-! ### Octets received (O25) -/

/-- R45: the port of a line on which an octet has been received. -/
def heardPort (u : Time) (q : Port) : Port :=
  { q with rx := { q.rx with gathered := [], line := .present, silence := some u } }

theorem exec_octet {s : State} {p : Fin 8} (high : s.rstLow = false) (quiet : (s.port p).rx.los = false) (o : Byte) :
    exec (.octetReceived p o) s = .next (receiveOctet p o s) := by
  show execOctetReceived p o s = _
  rw [execOctetReceived, running_high high, if_neg (by rw [quiet]; decide)]

section
variable {s : State} {p : Fin 8} {o : Byte}

theorem receiveOctet_idle (none : (s.port p).asm.cell = none) :
    receiveOctet p o s = s.modPort p (heardPort (s.after 20000)) := by
  have cell : ((s.modPort p (heardPort (s.after 20000))).port p).asm.cell = .none := by
    rw [State.port_modPort_same]
    exact none
  unfold receiveOctet
  dsimp only
  split
  · show assemblerOctet p o (s.modPort p (heardPort (s.after 20000))) = _
    simp only [assemblerOctet, cell]
  · show assemblerRegain p o (s.modPort p (heardPort (s.after 20000))) = _
    simp only [assemblerRegain, cell]

/-- R44, R45, R50: an octet of a PRESENT line joins or completes the line-timed cell. -/
theorem receiveOctet_line {held : Octets} (present : (s.port p).rx.line = .present)
    (line : (s.port p).asm.cell = some (.line held)) : receiveOctet p o s =
      if recN (s.setting p) ≤ held.length + 1 then
        completeCell p (held ++ [o]) false (s.modPort p fun q =>
          { heardPort (s.after 20000) q with asm := { q.asm with cell := some (.line []) } })
      else s.modPort p fun q =>
        { heardPort (s.after 20000) q with asm := { q.asm with cell := some (.line (held ++ [o])) } } := by
  have cell : ((s.modPort p (heardPort (s.after 20000))).port p).asm.cell = some (.line held) := by
    rw [State.port_modPort_same]
    exact line
  have eq : receiveOctet p o s = assemblerOctet p o (s.modPort p (heardPort (s.after 20000))) := by
    simp only [receiveOctet, present]
    rfl
  rw [eq]
  simp only [assemblerOctet, cell, setCell, modPort_modPort]
  rfl

/-- R47, R55: the first octet of a LOST line completes the station-timed cell and begins a line-timed one. -/
theorem receiveOctet_regain {u : Time} (lost : (s.port p).rx.line = .lost)
    (station : (s.port p).asm.cell = some (.station u)) : receiveOctet p o s =
      completeCell p (allOnes (recN (s.setting p))) true (s.modPort p fun q =>
        { heardPort (s.after 20000) q with asm := { q.asm with cell := some (.line [o]) } }) := by
  have cell : ((s.modPort p (heardPort (s.after 20000))).port p).asm.cell = some (.station u) := by
    rw [State.port_modPort_same]
    exact station
  have eq : receiveOctet p o s = assemblerRegain p o (s.modPort p (heardPort (s.after 20000))) := by
    simp only [receiveOctet, lost]
    rfl
  rw [eq]
  simp only [assemblerRegain, cell, setCell, modPort_modPort]
  rfl

end

/-- Settles O25 (R43 to R45, R47, R50 to R55). -/
theorem octetReceived : Obligations.OctetReceived := by
  refine ⟨fun p o s held high quiet present line => ?_, fun p o s high quiet lost => ?_,
    fun p o s high quiet present none => ?_, fun p o s asserted => ?_, isTribBody⟩
  · intro q r rx s1
    have eq := receiveOctet_line (o := o) present line
    have regained : rx = { q.rx with gathered := [], line := .present, silence := some (s.after 20000) } := by
      simp only [rx, ← show q.rx.line = .present from present]
    have handed := completeCell_after p (held ++ [o]) false s
      (fun q => { heardPort (s.after 20000) q with asm := { q.asm with cell := some (.line []) } })
      (fun q => { q with
        rx := rx
        asm := { q.asm with cell := some (.line []), nextCount := q.asm.nextCount + 1 }
        counts := { q.counts with cellsAssembled := bump q.counts.cellsAssembled } }) rfl rfl (by rw [regained]; rfl)
    refine ⟨receiveOctet p o s, exec_octet high quiet o, fun short => ?_, fun full => ?_, fun full => ?_⟩
    · rw [eq, if_neg (Nat.not_le.2 short)]
      refine ⟨?_, (modPort_onPort s p _).others, modPort_touches s p _⟩
      rw [State.port_modPort_same, regained]
      rfl
    · rw [eq, if_pos (Nat.le_of_eq full.symm)]
      exact handed.1
    · rw [eq, if_pos (Nat.le_of_eq full.symm)]
      exact handed.2
  · intro q r rx s1
    have handed := completeCell_after p (allOnes (recN r)) true s
      (fun q => { heardPort (s.after 20000) q with asm := { q.asm with cell := some (.line [o]) } })
      (fun q => { q with
        rx := rx
        asm := { q.asm with cell := some (.line [o]), nextCount := q.asm.nextCount + 1 }
        counts := { q.counts with
          cellsAssembled := bump q.counts.cellsAssembled, srcLostCells := bump q.counts.srcLostCells } }) rfl rfl rfl
    refine ⟨receiveOctet p o s, exec_octet high quiet o, fun none => ?_, fun u station => ?_, fun u station => ?_⟩
    · rw [receiveOctet_idle none]
      exact ⟨State.port_modPort_same .., (modPort_onPort s p _).others, modPort_touches s p _⟩
    · rw [receiveOctet_regain lost station]
      exact handed.1
    · rw [receiveOctet_regain lost station]
      exact handed.2
  · refine ⟨receiveOctet p o s, exec_octet high quiet o, ?_⟩
    rw [receiveOctet_idle none]
    refine ⟨?_, (modPort_onPort s p _).others, modPort_touches s p _⟩
    rw [State.port_modPort_same, heardPort, ← present]
  · show execOctetReceived p o s = _
    simp [execOctetReceived, State.running, asserted]

/-! ### Losses and station timing (O26) -/

/-- R48: the port whose PRESENT line has been lost, `rx` its receiver then. -/
def lostPort (rx : Receiver) (q : Port) : Port :=
  { q with
    rx := rx
    counts := { q.counts with lineLosses := if q.enabled then bump q.counts.lineLosses else q.counts.lineLosses } }

theorem exec_silence {s : State} {p : Fin 8} {u : Time} (high : s.rstLow = false) (timer : (s.port p).rx.silence = some u)
    (due : expired s.now u = true) : exec (.silenceTimerExpiry p) s = .next (loseLine p s) := by
  show execSilenceTimerExpiry p s = _
  rw [execSilenceTimerExpiry, running_high high, onExpiry_due timer due]

theorem exec_losAsserted {s : State} (high : s.rstLow = false) (p : Fin 8) : exec (.losAsserted p) s =
    .next (loseLine p (s.modPort p fun q => { q with rx := { q.rx with los := true, gathered := [] } })) := by
  show execLosAsserted p s = _
  simp only [execLosAsserted, high]
  rfl

theorem loseLine_present {s : State} {p : Fin 8} (present : (s.port p).rx.line = .present) : loseLine p s =
    assemblerOnset p (s.modPort p fun q => lostPort { q.rx with line := .lost, silence := none } q) := by
  simp only [loseLine, present]
  congr 1
  refine modPort_congr s p ?_
  cases enabled : (s.port p).enabled <;> simp [lostPort, enabled]

/-- R48, R49: what a loss makes of the cell in work, by its port `f` after the loss. -/
theorem assemblerOnset_spec (p : Fin 8) (s : State) (f : Port → Port) (asm : (f (s.port p)).asm = (s.port p).asm) :
    let t := assemblerOnset p (s.modPort p f)
    let begun : State := s.modPort p fun q => { f q with asm := { (f q).asm with cell := some (.station (s.after 10000)) } }
    ((s.port p).asm.cell = none → t = s.modPort p f) ∧
    ((s.port p).asm.cell = some (.line []) → t = begun) ∧
    (∀ held, held ≠ [] → (s.port p).asm.cell = some (.line held) →
      t = completeCell p (held ++ allOnes (recN (s.setting p) - held.length)) true begun) := by
  intro t begun
  have cell : ((s.modPort p f).port p).asm.cell = (s.port p).asm.cell := by rw [State.port_modPort_same, asm]
  have began : beginStationCell p (s.modPort p f) = begun := by
    show (s.modPort p f).modPort p (fun q => { q with asm := { q.asm with cell := some (.station (s.after 10000)) } }) = _
    rw [modPort_modPort]
  refine ⟨fun none => ?_, fun empty => ?_, fun held holds line => ?_⟩
  · rw [none] at cell
    show assemblerOnset p (s.modPort p f) = _
    simp only [assemblerOnset, cell]
  · rw [empty] at cell
    show assemblerOnset p (s.modPort p f) = _
    simp only [assemblerOnset, cell, began]
  · rw [line] at cell
    obtain ⟨o, os, rfl⟩ := List.exists_cons_of_ne_nil holds
    show assemblerOnset p (s.modPort p f) = _
    simp only [assemblerOnset, cell, began]
    rfl

/-- Settles O26 (R43, R44, R48, R49, R51, R54, R55). -/
theorem lossAndStationTiming : Obligations.LossAndStationTiming := by
  refine ⟨fun p s high present => ?_, fun p s u high station due => ?_, fun p s lost => ?_⟩
  · intro q r next lineLosses c rx loss
    have reached : exec c s = .next (assemblerOnset p (s.modPort p (lostPort rx))) := by
      rcases loss with ⟨rfl, rfl⟩ | ⟨⟨u, timer, due⟩, rfl, rfl⟩
      · rw [exec_losAsserted high, loseLine_present (by rw [State.port_modPort_same]; exact present), modPort_modPort]
        rfl
      · rw [exec_silence high timer due, loseLine_present present]
        exact congrArg (fun t => Host.Outcome.next (assemblerOnset p t)) (modPort_congr s p rfl)
    obtain ⟨idle, empty, pads⟩ := assemblerOnset_spec p s (lostPort rx) rfl
    refine ⟨_, reached, fun none => ?_, fun line => ?_, fun held holds line => ?_⟩
    · rw [idle none]
      exact ⟨State.port_modPort_same .., (modPort_onPort s p _).others, modPort_touches s p _⟩
    · rw [empty line]
      exact ⟨State.port_modPort_same .., (modPort_onPort s p _).others, modPort_touches s p _⟩
    · rw [pads held holds line]
      exact completeCell_after p _ true s _ _ rfl rfl rfl
  · intro q r cell s1
    refine ⟨completeCell p cell true (beginStationCell p s), ?_, ?_⟩
    · show execStationCellCompletion p s = _
      rw [execStationCellCompletion, running_high high]
      simp only [station, reach_expired due]
      rfl
    · exact completeCell_after p cell true s (fun q => { q with asm := { q.asm with
        cell := some (.station (s.after 10000)) } }) _ rfl rfl rfl
  · have still : ∀ t : State, (t.port p).rx.line = .lost → loseLine p t = t := fun t here => by
      simp only [loseLine, here]
    refine ⟨s.modPort p fun q => { q with rx := { q.rx with los := true, gathered := [] } }, ?_,
      State.port_modPort_same .., (modPort_onPort s p _).others, modPort_touches s p _⟩
    show execLosAsserted p s = _
    rw [execLosAsserted, still _ (by rw [State.port_modPort_same]; exact lost), ite_self]

/-! ### Sampled bits (O27) -/

theorem octetOfBits_concat (bits : List Bool) (b : Bool) :
    octetOfBits (bits ++ [b]) = (octetOfBits bits <<< 1) ||| boolCode b := by
  simp [octetOfBits]

/-- R43: the last bit gathered is the least significant. -/
theorem octetOfBits_bit (bits : List Bool) : ∀ i < 8, (octetOfBits bits).getLsbD i = bits.reverse.getD i false := by
  induction bits using List.reverseRecOn with
  | nil => simp [octetOfBits]
  | append_singleton bits b ih =>
    intro i inside
    rw [octetOfBits_concat, BitVec.getLsbD_or, BitVec.getLsbD_shiftLeft, List.reverse_concat]
    cases i with
    | zero => cases b <;> rfl
    | succ i =>
      have low : (boolCode b).getLsbD (i + 1) = false := by cases b <;> simp [boolCode]
      rw [low, Bool.or_false, Nat.add_sub_cancel, ih i (by omega)]
      simp [inside]

/-- R43: of eight bits gathered the first is the most significant. -/
theorem octetOfBits_msb (bits : List Bool) (eight : bits.length = 8) (i : Fin 8) :
    (octetOfBits bits).getMsbD i.val = bits.getD i.val false := by
  have place : 7 - (7 - i.val) = i.val := by omega
  rw [BitVec.getMsbD, octetOfBits_bit bits _ (by omega), List.getD_eq_getElem?_getD,
    List.getElem?_reverse (by omega), eight]
  simp [List.getD_eq_getElem?_getD, place]

/-- Settles O27 (R43, R45, R59). -/
theorem bitsAreGathered : Obligations.BitsAreGathered := by
  refine ⟨fun p b s high => ?_, fun p s => ?_⟩
  · intro q s1
    have port : s1.port p = { q with tx := { q.tx with repeatBit := b } } := State.port_modPort_same ..
    refine ⟨if q.rx.los then s1 else gatherBit p b s1, ?_, fun asserted => ?_, fun quiet few => ?_, fun quiet seven => ?_⟩
    · show execBitSampled p b s = _
      rw [execBitSampled, running_high high]
    · rw [if_pos asserted]
    · rw [if_neg (by rw [quiet]; decide), gatherBit, port, if_neg (by simp; omega)]
      exact modPort_congr s1 p (by rw [port])
    · refine ⟨octetOfBits (q.rx.gathered ++ [b]), octetOfBits_msb _ (by simp [seven]), ?_⟩
      rw [exec_octet (s := s1) high (by rw [port]; exact quiet), if_neg (by rw [quiet]; decide), gatherBit, port,
        if_pos (by simp [seven])]
  · exact ⟨_, rfl, State.port_modPort_same .., (modPort_onPort s p _).others, modPort_touches s p _⟩

end Sys2Proof.Machine
end

section
/-! The transmit clocks, running timers and what passes when no command waits (sections 3.6, 4.4, 6.3 and 10.1). -/

namespace Sys2Proof.Machine

open Sys2Proof.Safety

/-! ### A falling edge of TXCk -/

section
variable {q : Port}

theorem driveBit_disabled (h : q.enabled = false) : driveBit q = { q with tx := { q.tx with txd := true } } :=
  if_neg (by rw [h]; decide)

theorem driveBit_lineLoop (enabled : q.enabled = true) (line : q.circuit.loop = .line) :
    driveBit q = { q with tx := { q.tx with txd := q.tx.repeatBit } } :=
  (if_pos enabled).trans (if_pos (by rw [line]; rfl))

theorem driveBit_store (enabled : q.enabled = true) (notLine : q.circuit.loop ≠ .line) :
    driveBit q = { q with tx := q.tx.drive } :=
  (if_pos enabled).trans (if_neg (by simpa using notLine))

end

theorem drive_empty {t : Transmitter} (h : t.store = []) : t.drive = { t with txd := true } := by
  simp only [Transmitter.drive, h]

theorem drive_octet {t : Transmitter} {o : Byte} {rest : Octets} (h : t.store = o :: rest) : t.drive =
    if 7 ≤ t.sentBits then { t with store := rest, sentBits := 0, txd := o.getMsbD t.sentBits }
    else { t with sentBits := t.sentBits + 1, txd := o.getMsbD t.sentBits } := by
  simp only [Transmitter.drive, h]

/-- R57, R58: the state in which port `p` drives its next bit: one bit has been taken off the phase of its own clock. -/
def edgeReached (p : Fin 8) (s : State) : State :=
  if s.txRate p = 0 then s
  else { s with clock := { s.clock with txPhase := s.clock.txPhase.set p (s.clock.txPhase[p] - Config.txBit) } }

theorem exec_edge {s : State} {p : Fin 8} (high : s.rstLow = false)
    (due : s.txRate p = 0 ∨ Config.txBit ≤ s.clock.txPhase[p]) :
    exec (.txcFallingEdge p) s = .next ((edgeReached p s).modPort p driveBit) := by
  show execTxcFallingEdge p s = _
  rw [execTxcFallingEdge, running_high high, edgeReached]
  by_cases still : s.txRate p = 0
  · rw [if_pos still, if_pos still]
  · have here : Config.txBit - s.clock.txPhase[p] = 0 := Nat.sub_eq_zero_of_le (due.resolve_left still)
    rw [if_neg still, if_neg still, reachEdge]
    simp only [here, if_true]

theorem edgeReached_touches (p : Fin 8) (s : State) : Touches [.clock] s (edgeReached p s) :=
  .ite _ (.refl _ _) (clock_touches s _)

/-! ### A running timer's command and the time it waits for -/

theorem onExpiry_at {s : State} {timer : Timer} {u : Time} (h : timer = some u) (f : State → State) :
    s.onExpiry timer f = f (s.reach u) := by
  rw [h, State.onExpiry]

/-- What the command of a running timer does at the timer's station time `u`. -/
def ranDown (c : Instr) (u : Time) (t : State) : State :=
  match c with
  | .returnTimerExpiry L => openLane L t
  | .quietExpiry => enterRun t
  | .markPeriodExpiry => originateMark { t with markTimer := some (u + BitVec.ofNat 32 Config.markPeriod) }
  | .echoRound =>
    echoRound { t with echoTimer := some (u + BitVec.ofNat 32 (t.image.echoPeriod * Config.ticksPerMs)) }
  | .duplicateEntryExpiry st => t.setDup st.toNat none
  | .presenceTimerExpiry i L => loseLane i.val L t
  | .silenceTimerExpiry p => loseLine p t
  | .stationCellCompletion p => completeCell p (allOnes (recN (t.setting p))) true (beginStationCell p t)
  | .revertTimerExpiry p =>
    match (recMode (t.setting p)).configured with
    | none => t
    | some L => if (t.port p).circuit.current = some L then t else switchLane p L t
  | .qualificationExpiry k => takeQualified k t
  | .repeatTimerExpiry k => repeatCmd k t
  | .answerTimerExpiry k => expireAnswer k t
  | .persistenceTimerExpiry k => endActivation k (t.modIncoming k fun r => { r with persistence := none })
  | .holdTimerExpiry k =>
    match (t.cmd k).incoming with
    | none => t
    | some r => if r.state == .holding then releaseToIdle k t else t.modIncoming k fun r => { r with hold := none }
  | .sequenceTimerExpiry k => t.modIncoming k fun r => { r with lastSeq := none, seqTimer := none }
  | .takenWindowExpiry k => answerCycle k false t
  | _ => t

section
variable {s : State} {c : Instr} {u : Time}

/-- Log entry 2: the command of a running timer waits for the timer's station time. -/
theorem exec_ranDown (high : s.rstLow = false) (runs : RunsTo s c u) : exec c s = .next (ranDown c u (s.reach u)) := by
  cases c with
  | returnTimerExpiry L =>
    show execReturnTimerExpiry L s = _
    rw [execReturnTimerExpiry, running_high high, onExpiry_at runs]
    rfl
  | quietExpiry =>
    obtain ⟨quiet, timer⟩ := runs
    show execQuietExpiry s = _
    rw [execQuietExpiry, running_high high, quiet, if_pos (by rfl), onExpiry_at timer]
    rfl
  | markPeriodExpiry =>
    show execMarkPeriodExpiry s = _
    rw [execMarkPeriodExpiry, running_high high, show s.markTimer = some u from runs]
    rfl
  | echoRound =>
    show execEchoRound s = _
    rw [execEchoRound, running_high high, show s.echoTimer = some u from runs]
    rfl
  | duplicateEntryExpiry st =>
    obtain ⟨e, here, rfl⟩ := runs
    show execDuplicateEntryExpiry st s = _
    rw [execDuplicateEntryExpiry, running_high high, here]
    rfl
  | presenceTimerExpiry i L =>
    obtain ⟨r, here, timer⟩ := runs
    show execPresenceTimerExpiry i L s = _
    rw [execPresenceTimerExpiry, running_high high, here]
    exact congrArg _ (onExpiry_at timer _)
  | silenceTimerExpiry p =>
    show execSilenceTimerExpiry p s = _
    rw [execSilenceTimerExpiry, running_high high, onExpiry_at runs]
    rfl
  | stationCellCompletion p =>
    show execStationCellCompletion p s = _
    rw [execStationCellCompletion, running_high high, show (s.port p).asm.cell = some (.station u) from runs]
    rfl
  | revertTimerExpiry p =>
    obtain ⟨run, timer⟩ := runs
    show execRevertTimerExpiry p s = _
    rw [execRevertTimerExpiry, running_high high, run, if_pos (by rfl), onExpiry_at timer]
    rfl
  | qualificationExpiry k =>
    show execQualificationExpiry k s = _
    rw [execQualificationExpiry, running_high high, onExpiry_at runs]
    rfl
  | repeatTimerExpiry k =>
    obtain ⟨o, here, timer⟩ := runs
    show execRepeatTimerExpiry k s = _
    rw [execRepeatTimerExpiry, running_high high, here]
    exact congrArg _ (onExpiry_at timer _)
  | answerTimerExpiry k =>
    obtain ⟨o, here, timer⟩ := runs
    show execAnswerTimerExpiry k s = _
    rw [execAnswerTimerExpiry, running_high high, here]
    exact congrArg _ (onExpiry_at timer _)
  | persistenceTimerExpiry k =>
    obtain ⟨r, here, timer⟩ := runs
    show execPersistenceTimerExpiry k s = _
    rw [execPersistenceTimerExpiry, running_high high, here]
    exact congrArg _ (onExpiry_at timer _)
  | holdTimerExpiry k =>
    obtain ⟨r, here, timer⟩ := runs
    have later : ((s.reach u).cmd k).incoming = some r := by
      rw [State.cmd, (reach_touches s u).same .cmds (by decide)]
      exact here
    show execHoldTimerExpiry k s = _
    rw [execHoldTimerExpiry, running_high high, ranDown, later, here]
    exact congrArg _ (onExpiry_at timer _)
  | sequenceTimerExpiry k =>
    obtain ⟨r, here, timer⟩ := runs
    show execSequenceTimerExpiry k s = _
    rw [execSequenceTimerExpiry, running_high high, here]
    exact congrArg _ (onExpiry_at timer _)
  | takenWindowExpiry k =>
    obtain ⟨r, x, here, cycle, timer⟩ := runs
    show execTakenWindowExpiry k s = _
    rw [execTakenWindowExpiry, running_high high, here]
    simp only [cycle]
    exact congrArg _ (onExpiry_at timer _)
  | _ => cases runs

theorem eq_of_touches_clock {t : State} (h : Touches [.clock] s t) : t = { s with clock := t.clock } := by
  have parts : ∀ x, x ≠ Part.clock → x.same s t := fun x hx => h x (by simpa using hx)
  cases s
  cases t
  have rstLow := parts .rstLow (by decide)
  have ctl := parts .ctl (by decide)
  have lanes := parts .lanes (by decide)
  have dup := parts .dup (by decide)
  have stats := parts .stats (by decide)
  have marks := parts .marks (by decide)
  have markTimer := parts .markTimer (by decide)
  have echoTimer := parts .echoTimer (by decide)
  have peers := parts .peers (by decide)
  have ports := parts .ports (by decide)
  have cmds := parts .cmds (by decide)
  have block := parts .block (by decide)
  have changes := parts .changes (by decide)
  have cfg := parts .cfg (by decide)
  have image := parts .image (by decide)
  have tieBreak := parts .tieBreak (by decide)
  have pending := parts .pending (by decide)
  simp only [Part.same] at *
  subst_vars
  rfl

theorem runsTo_clock (k : Clock) (runs : RunsTo s c u) : RunsTo { s with clock := k } c u := by
  cases c <;> exact runs

/-- Log entry 2: a command of a running timer, offered before its time, is the same command at its time. -/
theorem exec_reached {m : State} (high : s.rstLow = false) (reached : s.reach u = m) (again : m.reach u = m)
    (moved : Touches [.clock] s m) (runs : RunsTo s c u) : exec c s = exec c m := by
  have runs' : RunsTo m c u := (eq_of_touches_clock moved) ▸ runsTo_clock m.clock runs
  rw [exec_ranDown high runs, exec_ranDown ((moved.same .rstLow (by decide)).trans high) runs', reached, again]

end

/-! ### Nothing waits -/

theorem arrange_one {α : Type} (cs : List Nat) (l : List α) :
    ((arrange 1 cs l).1 = [] ∧ l = []) ∨ ∃ c rest, (arrange 1 cs l).1 = c :: rest ∧ c ∈ l := by
  match l with
  | [] => exact .inl ⟨rfl, rfl⟩
  | [x] => exact .inr ⟨x, [], rfl, by simp⟩
  | x :: y :: l =>
    have inside : cs.headD 0 % (l.length + 2) < (x :: y :: l).length := Nat.mod_lt _ (by omega)
    refine .inr ⟨_, _, rfl, ?_⟩
    rw [List.getElem?_eq_getElem inside]
    exact List.getElem_mem inside

theorem step_idle {s : State} (empty : s.pending = []) :
    (s.rstLow = true → step s = .next s) ∧
    (s.rstLow = false → (∀ c, ¬FallsDue s c) → step s = .next (s.elapse 1)) ∧
    (s.rstLow = false → (∃ c, FallsDue s c) →
      ∃ (c : Instr) (choices : List Nat), FallsDue s c ∧ step s = exec c { s with tieBreak := choices }) := by
  have steps : step s = idle s := by simp only [step, empty]
  rw [steps, idle]
  refine ⟨fun low => ?_, fun high none => ?_, fun high ⟨d, due⟩ => ?_⟩
  · rw [if_pos low]
  · rw [if_neg (by rw [high]; decide)]
    rcases arrange_one s.tieBreak s.dueEvents with ⟨nothing, -⟩ | ⟨c, rest, -, member⟩
    · simp only [nothing]
    · exact absurd ((mem_dueEvents s c).1 member) (none c)
  · rw [if_neg (by rw [high]; decide)]
    rcases arrange_one s.tieBreak s.dueEvents with ⟨-, nothing⟩ | ⟨c, rest, chosen, member⟩
    · have := (mem_dueEvents s d).2 due
      rw [nothing] at this
      cases this
    · exact ⟨c, (arrange 1 s.tieBreak s.dueEvents).2, (mem_dueEvents s c).1 member, by simp only [chosen]⟩

/-! ### The transmit edge and the passing of time (O28) -/

theorem elapse_spec (s : State) (quanta : Nat) :
    let t := s.elapse quanta
    let ticks := (s.clock.subTick + quanta) / 25
    t.now = s.now + BitVec.ofNat 32 ticks ∧ t.clock.subTick = (s.clock.subTick + quanta) % 25 ∧
    t.clock.interval = s.clock.interval + ticks ∧
    (∀ L : Lane, t.clock.sendLeft.get L = s.clock.sendLeft.get L - quanta) ∧
    (∀ p : Fin 8, t.clock.txPhase[p] = s.clock.txPhase[p] + quanta * s.txRate p) := by
  refine ⟨rfl, rfl, rfl, fun L => PerLane.get_map .., fun p => ?_⟩
  simp [State.elapse]

theorem txRate_running {s : State} {p : Fin 8} (closed : s.closed = true) (enabled : (s.port p).enabled = true)
    (notLine : (s.port p).circuit.loop ≠ .line) :
    s.txRate p = 8 * recN (s.setting p) * (1000000000 + (s.port p).clk.applied).toNat := by
  simp only [State.txRate, State.txClass, closed, enabled, if_true]
  rw [if_neg (by simpa using notLine)]
  rfl

/-- Settles O28 (R57 to R59, R70, R111, R171). -/
theorem transmitEdge : Obligations.TransmitEdge := by
  refine ⟨fun p s high due => ?_, fun s quanta => ?_, fun s p closed enabled notLine positive => ?_,
    fun s c u high sub ahead => ?_, fun s empty => step_idle empty⟩
  · intro q
    have moved := edgeReached_touches p s
    have ports := State.port_of_ports (moved.same .ports (by decide))
    have clock : ((edgeReached p s).modPort p driveBit).clock = (edgeReached p s).clock := rfl
    have port : ((edgeReached p s).modPort p driveBit).port p = driveBit q := by rw [State.port_modPort_same, ports]
    refine ⟨_, exec_edge high due, fun off => ?_, fun enabled line => ?_, fun enabled notLine empty => ?_,
      fun o rest enabled notLine store => ⟨fun few => ?_, fun last => ?_⟩, fun r other => ?_, ?_,
      (moved.mono (by decide)).trans ((modPort_touches _ p _).mono (by decide)), fun still => ?_, fun runs => ?_⟩
    · rw [port, driveBit_disabled off]
    · rw [port, driveBit_lineLoop enabled line]
    · rw [port, driveBit_store enabled notLine, drive_empty empty]
    · rw [port, driveBit_store enabled notLine, drive_octet store, if_neg (by omega)]
    · rw [port, driveBit_store enabled notLine, drive_octet store, if_pos (by omega), last]
      simp [BitVec.getMsbD]
    · rw [State.port_modPort_other _ _ _ _ other, ports]
    · rw [clock, edgeReached]
      split <;> rfl
    · rw [clock, edgeReached, if_pos still]
    · rw [clock, edgeReached, if_neg runs]
      refine ⟨by simp, fun r other => ?_⟩
      simp [Fin.val_ne_of_ne (Ne.symm other)]
  · obtain ⟨now, sub, interval, sending, phases⟩ := elapse_spec s quanta
    exact ⟨now, sub, interval, sending, fun p => ⟨by rw [phaseRate_eq]; exact phases p, phaseRate_eq p s⟩,
      elapse_touches s quanta⟩
  · obtain ⟨-, -, -, -, phases⟩ := elapse_spec s 250000
    rw [phases p, txRate_running closed enabled notLine]
    have rate := Int.toNat_of_nonneg positive
    simp only [Config.txBit]
    push_cast
    rw [rate]
    ring
  · obtain ⟨now, interval, touched⟩ := reach_ahead s u sub ahead
    refine ⟨now, interval, touched, exec_reached high rfl ?_ touched⟩
    exact reach_expired (by rw [now]; simp [expired])

end Sys2Proof.Machine
end

section
/-! The interval event of a circuit, by circuit state (sections 4.4, 4.5, 5.2, 6.2 to 6.4). -/

namespace Sys2Proof.Machine

open Sys2Proof.Safety

/-! ### Holdover, and the octets passed to the transmit store -/

theorem holdover_heldOver (r : CircuitRecord) (c : ClockLoop) : HeldOver (recN r) c (holdover r c) := by
  refine ⟨accumulate_applied .., accumulate_held .., accumulate_integrator .., ?_⟩
  by_cases more : 1000000000 ≤ c.accumulator + recN r * c.held
  · rw [if_pos more, holdover, accumulate_octetMore more]
  · rw [if_neg more]
    by_cases fewer : c.accumulator + recN r * c.held ≤ -1000000000
    · rw [if_pos fewer, holdover, accumulate_octetFewer fewer]
    · rw [if_neg fewer, holdover, accumulate_sameOctets (Int.not_le.1 fewer) (Int.not_le.1 more)]

theorem passOctets_eq (r : CircuitRecord) (os : Octets) (q : Port) :
    passOctets r os q = { q with tx := withOctets r q os } := by
  unfold passOctets withOctets
  by_cases line : q.circuit.loop = .line
  · rw [if_pos (by simpa using line), if_pos line]
  · rw [if_neg (by simpa using line), if_neg line]

/-! ### Octets taken one after another -/

theorem takeOctet_octets (r : CircuitRecord) (t : Take) : (takeOctet r t).octets.length = t.octets.length + 1 := by
  unfold takeOctet
  split <;> simp

theorem takeOctets_octets (r : CircuitRecord) : ∀ (n : Nat) (t : Take),
    (takeOctets r n t).octets.length = t.octets.length + n
  | 0, t => rfl
  | n + 1, t => by
    rw [takeOctets, takeOctets_octets r n, takeOctet_octets]
    omega

theorem takeOctets_fromCell (r : CircuitRecord) : ∀ (n : Nat) (t : Take), t.fromCell = true →
    (takeOctets r n t).fromCell = true
  | 0, t, h => h
  | n + 1, t, h => by
    refine takeOctets_fromCell r n _ ?_
    unfold takeOctet
    split
    · exact h
    · simp [h]

/-- R73, R75: taken from the anchor's cell, the octets of an interval are not a starved run's. -/
theorem takeOctets_anchored {r : CircuitRecord} {e : Engine} {pos : Position} {h : HeldCell} (n : Nat)
    (counts : CircuitCounters) (position : e.position = some pos) (held : e.cellOf pos.count = some h) (taken : 1 ≤ n) :
    (takeOctets r n ⟨e, counts, [], false⟩).fromCell = true := by
  obtain ⟨m, rfl⟩ := Nat.exists_eq_add_of_le' taken
  refine takeOctets_fromCell r m _ ?_
  rw [takeOctet_positioned position]
  simp [held]

/-! ### The end of every interval event: the fill figure and the clock loop -/

/-- R70, R78, R106: the port of a circuit once its fill has been measured and its clock loop has computed. -/
def measuredPort (im : Image) (r : CircuitRecord) (q : Port) : Port :=
  let fill := q.engine.measure (recN r)
  { q with
    engine := { q.engine with fill := fill, stored := false }
    clk := if q.circuit.state = .play then steer im r fill q.clk else holdover r q.clk }

/-- R74, R112: a circuit that has gone to WAIT measures nothing and holds over. -/
theorem measuredPort_waiting (im : Image) (r : CircuitRecord) (q : Port) :
    measuredPort im r (q.enterEmpty .wait) = { q.enterEmpty .wait with clk := holdover r q.clk } := rfl

theorem measuredPort_play {im : Image} {r : CircuitRecord} {q : Port} (play : q.circuit.state = .play) :
    measuredPort im r q = { q with
      engine := { q.engine with fill := q.engine.measure (recN r), stored := false }
      clk := steer im r (q.engine.measure (recN r)) q.clk } := by
  rw [measuredPort, if_pos play]

theorem setting_of_image {s t : State} (h : t.image = s.image) (p : Fin 8) : t.setting p = s.setting p :=
  congrArg (fun im : Image => im.circuits[p]) h

section
variable (p : Fin 8) (s : State)

theorem measured_port : (computeClock p (measureFill p s)).port p = measuredPort s.image (s.setting p) (s.port p) := by
  rw [computeClock, State.port_modPort_same, measureFill, State.port_modPort_same]
  by_cases play : (s.port p).circuit.state = .play <;> simp [measuredPort, play] <;> rfl

theorem measured_touches : Touches [.ports] s (computeClock p (measureFill p s)) :=
  (modPort_touches s p _).trans (modPort_touches _ p _)

theorem sendFill_port : (sendFill p s).port p = { s.port p with
    tx := withOctets (s.setting p) (s.port p) (List.replicate (s.port p).clk.next (recFillOctet (s.setting p))) } := by
  rw [sendFill, State.port_modPort_same, passOctets_eq]

/-- R71, R74: the port of a circuit in PLAY once an interval's octets have been taken. -/
theorem playTake_port :
    let q := s.port p
    let taken := takeOctets (s.setting p) q.clk.next ⟨q.engine, q.counts, [], false⟩
    (playTake p s).port p = { q with
      tx := withOctets (s.setting p) q taken.octets
      engine := { taken.engine with starvedRun := if taken.fromCell then 0 else q.engine.starvedRun + 1 }
      counts := taken.counts } := by
  rw [playTake, State.port_modPort_same, passOctets_eq]
  rfl

end

section
variable {p : Fin 8} {s : State}

theorem engineInterval_wait (wait : (s.port p).circuit.state = .wait) :
    engineInterval p s = computeClock p (measureFill p (sendFill p s)) := by
  simp only [engineInterval, wait]

theorem engineInterval_flush (flush : (s.port p).circuit.state = .flush) :
    engineInterval p s = countFlush p (computeClock p (measureFill p (sendFill p s))) := by
  simp only [engineInterval, flush]

theorem engineInterval_prefill (prefill : (s.port p).circuit.state = .prefill)
    (below : (s.port p).engine.measure (recN (s.setting p)) < recTargetFill (s.setting p)) :
    engineInterval p s = prefillInterval p s := by
  simp only [engineInterval, prefill]
  exact if_neg (Nat.not_le.2 below)

theorem engineInterval_enters (prefill : (s.port p).circuit.state = .prefill)
    (reached : recTargetFill (s.setting p) ≤ (s.port p).engine.measure (recN (s.setting p))) :
    engineInterval p s = playInterval p (enterPlay p s) := by
  simp only [engineInterval, prefill]
  exact if_pos reached

theorem engineInterval_play (play : (s.port p).circuit.state = .play) : engineInterval p s = playInterval p s := by
  simp only [engineInterval, play]

theorem measure_unpositioned {e : Engine} (n : Nat) (h : e.position = none) : e.measure n = 0 := by
  rw [Engine.measure, h]

/-- R70, R78, R112: a circuit without a play position sends fill and holds over. -/
theorem filled_port (notPlay : (s.port p).circuit.state ≠ .play) (unpositioned : (s.port p).engine.position = none) :
    (computeClock p (measureFill p (sendFill p s))).port p = { s.port p with
      tx := withOctets (s.setting p) (s.port p) (List.replicate (s.port p).clk.next (recFillOctet (s.setting p)))
      engine := { (s.port p).engine with fill := 0, stored := false }
      clk := holdover (s.setting p) (s.port p).clk } := by
  rw [measured_port, sendFill_port, measuredPort]
  simp only [measure_unpositioned _ unpositioned, if_neg notPlay]
  rfl

end

/-- R76, R113: what the starvation limit leaves of the port. -/
theorem checkStarvation_starved_port {p : Fin 8} {s : State} (play : (s.port p).circuit.state = .play)
    (limit : recStarvation (s.setting p) ≤ (s.port p).engine.starvedRun) :
    (checkStarvation p s).port p = Port.enterEmpty .wait { s.port p with
      clk := (s.port p).clk.save
      counts := { (s.port p).counts with starvations := bump (s.port p).counts.starvations } } ∧
    (checkStarvation p s).changes = withEntry s.now (.circuitState p .wait) s.changes := by
  rw [checkStarvation_starved play limit]
  refine ⟨?_, toWait_changes p _⟩
  rw [toWait_port, saveHeld, State.port_modPort_same, State.countPort, State.port_modPort_same]

/-- Settles O30 (R57, R59, R65, R70 to R78, R84 to R88, R105 to R114). -/
theorem intervalByState : Obligations.IntervalByState := by
  refine ⟨fun p s wait unpositioned => ?_, fun p s flush unpositioned => ?_, fun p s prefill below => ?_,
    fun p s pos h prefill position held some limit reached => ?_, fun p s play => ?_⟩
  · intro q r t
    have eq : t = _ := engineInterval_wait wait
    have port := filled_port (by rw [wait]; decide) unpositioned
    have others := (engineInterval_onPort p s).others
    rw [← eq] at port
    rw [port]
    refine ⟨rfl, rfl, holdover_heldOver .., rfl, rfl, rfl, rfl, others, ?_⟩
    rw [eq]
    exact (modPort_touches s p _).trans (measured_touches p _)
  · intro q r t
    have eq : t = _ := engineInterval_flush flush
    have filled := filled_port (by rw [flush]; decide) unpositioned
    have others := (engineInterval_onPort p s).others
    have moved : Touches [.ports] s (computeClock p (measureFill p (sendFill p s))) :=
      (modPort_touches s p _).trans (measured_touches p _)
    generalize computeClock p (measureFill p (sendFill p s)) = x at eq filled moved
    have setting : x.setting p = r := setting_of_image (moved.same .image (by decide)) p
    let counted := x.modPort p fun q => { q with circuit := { q.circuit with flushCount := q.circuit.flushCount + 1 } }
    have port : counted.port p = _ := (State.port_modPort_same x p _).trans (by rw [filled])
    have eq : t = checkFlushEnd p counted := eq
    have touched : Touches [.ports] s counted := moved.trans (modPort_touches x p _)
    by_cases more : q.circuit.flushCount + 1 < recFlush r
    · have same : t = counted := eq.trans (checkFlushEnd_below (by
        rw [port, show counted.setting p = r from setting]
        exact more))
      rw [same, port]
      exact ⟨rfl, rfl, holdover_heldOver .., rfl, rfl, rfl, same ▸ others, fun _ => ⟨rfl, touched⟩,
        fun limit => absurd more (Nat.not_lt.2 limit)⟩
    · have ended := eq.trans (checkFlushEnd_limit (by rw [port]; exact flush) (by
        rw [port, show counted.setting p = r from setting]
        exact Nat.not_lt.1 more))
      have port' : t.port p = _ := (congrArg (fun u => State.port u p) ended).trans
        ((State.pushChange_port _ _ p).trans ((State.port_modPort_same counted p _).trans (by rw [port])))
      rw [port']
      refine ⟨rfl, rfl, holdover_heldOver .., rfl, rfl, rfl, others, fun few => absurd few more, fun _ => ⟨rfl, ?_, ?_⟩⟩
      · rw [ended, pushChange_changes]
        show withEntry counted.clock.time _ counted.changes = _
        rw [touched.same .clock (by decide), touched.same .changes (by decide)]
        rfl
      · rw [ended]
        exact (touched.mono (by decide)).trans
          (((modPort_touches counted p _).mono (by decide)).trans ((pushChange_touches _ _).mono (by decide)))
  · intro q r t idle
    have others := (engineInterval_onPort p s).others
    let s1 := (sendFill p s).modPort p fun q =>
      { q with engine := { q.engine with idleRun := if q.engine.stored then 0 else q.engine.idleRun + 1 } }
    have eq : t = computeClock p (measureFill p (checkIdleRun p s1)) := engineInterval_prefill prefill below
    have port : s1.port p = _ := (State.port_modPort_same (sendFill p s) p _).trans (by rw [sendFill_port])
    have touched : Touches [.ports] s s1 := (modPort_touches s p _).trans (modPort_touches _ p _)
    have image := touched.same .image (by decide)
    by_cases few : idle < recStarvation r
    · have same : checkIdleRun p s1 = s1 := checkIdleRun_below (by rw [port]; exact few)
      rw [same] at eq
      have port' := eq ▸ measured_port p s1
      rw [port, measuredPort, if_neg (show ¬(s.port p).circuit.state = .play by rw [prefill]; decide)] at port'
      rw [port']
      exact ⟨rfl, holdover_heldOver .., rfl, rfl, rfl, others,
        fun _ => ⟨rfl, rfl, eq ▸ touched.trans (measured_touches p s1)⟩, fun limit => absurd few (Nat.not_lt.2 limit)⟩
    · have ended : checkIdleRun p s1 = toWait p s1 :=
        checkIdleRun_limit (by rw [port]; exact prefill) (by rw [port]; exact Nat.not_lt.1 few)
      rw [ended] at eq
      have port' := eq ▸ measured_port p (toWait p s1)
      rw [toWait_port, port, measuredPort_waiting, show (toWait p s1).setting p = r from setting_of_image
        (((toWait_touches p s1).same .image (by decide)).trans image) p] at port'
      rw [port']
      refine ⟨rfl, holdover_heldOver .., rfl, rfl, rfl, others, fun less => absurd less few, fun _ => ⟨rfl, rfl, ?_, ?_⟩⟩
      · rw [eq]
        exact toWait_changes p s1
      · rw [eq]
        exact (touched.mono (by decide)).trans ((toWait_touches p s1).trans ((measured_touches p _).mono (by decide)))
  · intro q r taken fill t
    have others := (engineInterval_onPort p s).others
    have fromCell : taken.fromCell = true := takeOctets_anchored q.clk.next q.counts position held some
    have octets : taken.octets.length = q.clk.next := (takeOctets_octets r _ _).trans (by simp)
    have eq : t = playInterval p (enterPlay p s) := engineInterval_enters prefill reached
    have entered : (enterPlay p s).port p =
        { q with clk := { q.clk with integrator := q.clk.held }, circuit := { q.circuit with state := .play } } := by
      rw [enterPlay, State.pushChange_port, State.port_modPort_same]
      rfl
    have image : (enterPlay p s).image = s.image := (enterPlay_touches p s).same .image (by decide)
    have port : (playTake p (enterPlay p s)).port p = { q with
        clk := { q.clk with integrator := q.clk.held }
        circuit := { q.circuit with state := .play }
        tx := withOctets r q taken.octets
        engine := { taken.engine with starvedRun := 0 }
        counts := taken.counts } := by
      have took := playTake_port p (enterPlay p s)
      rw [entered, setting_of_image image] at took
      refine took.trans ?_
      rw [show (takeOctets (s.setting p) _ _).fromCell = true from fromCell]
      rfl
    have fed : checkStarvation p (playTake p (enterPlay p s)) = playTake p (enterPlay p s) :=
      checkStarvation_fed fun _ => by
        rw [port, show (playTake p (enterPlay p s)).setting p = s.setting p from setting_of_image image p]
        exact limit
    rw [playInterval, fed] at eq
    have port' : t.port p = _ := eq ▸ measured_port p (playTake p (enterPlay p s))
    rw [port, measuredPort_play rfl, show (playTake p (enterPlay p s)).image = s.image from image,
      show (playTake p (enterPlay p s)).setting p = r from setting_of_image image p] at port'
    refine ⟨octets, fromCell, port', ?_, ?_, ?_, ?_, others, ?_⟩
    · rw [port']
      exact steer_held ..
    · rw [port']
      exact steer_integrator ..
    · rw [port']
      exact steer_applied ..
    · rw [eq]
      exact pushChange_changes _ _
    · rw [eq]
      exact (enterPlay_touches p s).trans ((modPort_touches _ p _).mono (by decide) |>.trans ((measured_touches p _).mono (by decide)))
  · intro q r taken fill starved t
    have others := (engineInterval_onPort p s).others
    have octets : taken.octets.length = q.clk.next := (takeOctets_octets r _ _).trans (by simp)
    have eq : t = computeClock p (measureFill p (checkStarvation p (playTake p s))) := engineInterval_play play
    have port := playTake_port p s
    have touched : Touches [.ports] s (playTake p s) := modPort_touches s p _
    by_cases fed : starved < recStarvation r
    · have same : checkStarvation p (playTake p s) = playTake p s := checkStarvation_fed fun _ => by
        rw [port]
        exact fed
      rw [same] at eq
      have port' : t.port p = _ := (eq ▸ measured_port p (playTake p s)).trans
        ((congrArg (measuredPort _ _) port).trans (measuredPort_play play))
      rw [port']
      exact ⟨octets, rfl, rfl, rfl, fun _ => ⟨rfl, rfl, rfl, rfl, others, eq ▸ touched.trans (measured_touches p _)⟩,
        fun limit => absurd fed (Nat.not_lt.2 limit)⟩
    · obtain ⟨starved, changes⟩ := checkStarvation_starved_port (p := p) (s := playTake p s) (by rw [port]; exact play)
        (by rw [port]; exact Nat.not_lt.1 fed)
      have starve := checkStarvation_touches p (playTake p s)
      have port' : t.port p = _ := eq ▸ measured_port p (checkStarvation p (playTake p s))
      rw [starved, measuredPort_waiting, setting_of_image (starve.same .image (by decide)), port,
        show (playTake p s).setting p = r from rfl] at port'
      rw [port']
      refine ⟨octets, rfl, rfl, rfl, fun less => absurd less fed, fun _ => ⟨rfl, rfl, rfl, ?_, ?_, others, ?_⟩⟩
      · exact holdover_heldOver r { q.clk with held := q.clk.integrator }
      · rw [eq]
        exact changes
      · rw [eq]
        exact (touched.mono (by decide)).trans (starve.trans ((measured_touches p _).mono (by decide)))

end Sys2Proof.Machine
end

section
/-! The command unit (chapter 8): qualification, activations, answers, and the received commands. -/

namespace Sys2Proof.Machine

open Sys2Proof.Safety

/-! ### Records changed, and the frames of the command unit -/

section
variable {s : State} {k : Fin 4}

theorem modOutgoing_eq {o : Outgoing} (h : (s.cmd k).outgoing = some o) (f : Outgoing → Outgoing) :
    s.modOutgoing k f = s.modCmd k fun c => { c with outgoing := some (f o) } :=
  modCmd_congr s k _ _ (by simp only [h, Option.map_some])

theorem modIncoming_eq {r : Incoming} (h : (s.cmd k).incoming = some r) (f : Incoming → Incoming) :
    s.modIncoming k f = s.modCmd k fun c => { c with incoming := some (f r) } :=
  modCmd_congr s k _ _ (by simp only [h, Option.map_some])

theorem sendCmd_originates (run : s.ctl.station = .run) (settled : Settled s) (k : Fin 4) (on : Bool) (act : BitVec 8) :
    Originates [.A, .B] (ownFrame .cmd (cmdFarStation (s.cmdSetting k)) [BitVec.ofNat 8 (k.val + 1), boolCode on, act] s)
      s (sendCmd k on act s) :=
  originate_originates run settled (by decide) (by decide) _ _

theorem sendCmdAck_originates (run : s.ctl.station = .run) (settled : Settled s) (k : Fin 4) (act : BitVec 8)
    (conditions : Conditions) :
    Originates [.A, .B]
      (ownFrame .cmdAck (cmdFarStation (s.cmdSetting k)) [BitVec.ofNat 8 (k.val + 1), act, conditions.code] s)
      s (sendCmdAck k act conditions s) :=
  originate_originates run settled (by decide) (by decide) _ _

/-- An entry that follows an origination. -/
theorem originates_pushChange {lanes : List Lane} {f : Octets} {t : State} (h : Originates lanes f s t) (c : Change) :
    t.pushChange c = { t with changes := withEntry s.now c s.changes } := by
  obtain ⟨-, -, -, clock, touched⟩ := h
  rw [pushChange_eq, touched.same .changes (by decide), State.now, clock]
  rfl

end

/-! ### Qualification (O45, O46) -/

theorem exec_ciChange {s : State} {k : Fin 4} {level : Bool} (high : s.rstLow = false) (changes : (s.cmd k).ci ≠ level) :
    exec (.ciChange k level) s = .next (judgePin k (s.modCmd k fun c => { c with ci := level })) := by
  show execCiChange k level s = _
  rw [execCiChange, if_neg (by simp [high, changes])]

theorem exec_qualified {s : State} {k : Fin 4} {u : Time} (high : s.rstLow = false) (timer : (s.cmd k).qualTimer = some u)
    (due : expired s.now u = true) : exec (.qualificationExpiry k) s = .next (takeQualified k s) := by
  show execQualificationExpiry k s = _
  rw [execQualificationExpiry, running_high high, onExpiry_due timer due]

/-- R136: the timer that has run down plays no part in what follows. -/
theorem takeQualified_timer (k : Fin 4) (s : State) (timer : Timer) :
    takeQualified k (s.modCmd k fun c => { c with qualTimer := timer }) = takeQualified k s := by
  unfold takeQualified
  dsimp only
  rw [modCmd_modCmd, State.cmd_modCmd_same]
  rfl

/-- Settles O45 (R135, R136). -/
theorem pinQualified : Obligations.PinQualified := by
  intro k level s high changes c ms
  let s1 := s.modCmd k fun c => { c with ci := level }
  have cmd : s1.cmd k = { c with ci := level } := State.cmd_modCmd_same s k _
  refine ⟨_, exec_ciChange high changes, fun none => ?_, fun some same => ?_, fun some differs long => ?_,
    fun some differs zero => ?_⟩
  all_goals
    show _
    unfold judgePin
    dsimp only
    rw [cmd]
  · rw [if_pos (by simp [none])]
  · rw [if_neg (by simpa using some), if_pos (by simpa using same), modCmd_modCmd]
  · rw [if_neg (by simpa using some), if_neg (by simpa using differs),
      if_neg (show ¬cmdQualification (s1.cmdSetting k) = 0 from long), modCmd_modCmd]
    rfl
  · rw [if_neg (by simpa using some), if_neg (by simpa using differs),
      if_pos (show cmdQualification (s1.cmdSetting k) = 0 from zero)]
    rw [exec_qualified (s := s.modCmd k fun c => { c with ci := level, qualTimer := Option.some s.now }) (u := s.now) high
      (by rw [State.cmd_modCmd_same]) (by simp [expired, State.now])]
    exact congrArg Host.Outcome.next ((congrArg (takeQualified k) (modCmd_modCmd s k _ _)).symm.trans
      (takeQualified_timer k s1 (Option.some s.now)))

/-- R136: the qualified level takes the pin's level. -/
def levelTaken (k : Fin 4) (s : State) : State :=
  s.modCmd k fun c => { c with qualified := (s.cmd k).ci, qualTimer := none }

theorem takeQualified_run {s : State} (run : s.ctl.station = .run) (k : Fin 4) : takeQualified k s =
    if (s.cmd k).ci then takeAssertion k (levelTaken k s) else takeDeassertion k (levelTaken k s) :=
  if_pos (by rw [run]; rfl)

section
variable {s : State} {k : Fin 4} {o : Outgoing}

/-- R137, R140: a new activation: its record, its CMD(ON) and its entry. -/
theorem takeAssertion_eq (here : (s.cmd k).outgoing = some o) : takeAssertion k s =
    (sendCmd k true (o.activation + 1) (s.modCmd k fun c => { c with
      outgoing := some ⟨.on, o.activation + 1, .awaiting, none, 0, some (s.after 20000),
        some (s.after (cmdAnswerTimeout (s.cmdSetting k) * 10000))⟩ })).pushChange (.cmdSent k (o.activation + 1)) := by
  simp only [takeAssertion, here]
  rw [modOutgoing_eq here]
  rfl

theorem takeDeassertion_on (here : (s.cmd k).outgoing = some o) (on : o.activity = .on) : takeDeassertion k s =
    sendCmd k false o.activation (s.modCmd k fun c => { c with
      outgoing := some { o with activity := .releasing, offLeft := 2, repeatTimer := some (s.after 20000) } }) := by
  simp only [takeDeassertion, here, on]
  rw [modOutgoing_eq here]
  rfl

theorem takeDeassertion_notOn (here : (s.cmd k).outgoing = some o) (notOn : o.activity ≠ .on) : takeDeassertion k s = s := by
  simp only [takeDeassertion, here]
  cases activity : o.activity with
  | on => exact absurd activity notOn
  | idle => rfl
  | releasing => rfl

end

/-- Settles O46 (R136, R137, R140, R142). -/
theorem qualifiedChangeTaken : Obligations.QualifiedChangeTaken := by
  intro k s u o high timer due here level far cmdFrame act sent releasing
  have taken : (levelTaken k s).cmd k = { s.cmd k with qualified := level, qualTimer := none } :=
    State.cmd_modCmd_same s k _
  have record : ((levelTaken k s).cmd k).outgoing = some o := by
    rw [taken]
    exact here
  refine ⟨_, exec_qualified high timer due, fun outside => if_neg (by simpa using outside), fun run asserted settled => ?_,
    fun run off on settled => ?_, fun run off notOn => ?_⟩
  all_goals rw [takeQualified_run run]
  · rw [if_pos asserted, takeAssertion_eq record, levelTaken, modCmd_modCmd, show (s.cmd k).ci = true from asserted]
    have sends := sendCmd_originates (s := s.modCmd k fun c => { c with
      qualified := true, qualTimer := none, outgoing := some sent }) run (settled_of_lanes rfl settled) k true act
    exact ⟨_, sends, originates_pushChange sends _⟩
  · rw [if_neg (by rw [show (s.cmd k).ci = false from off]; decide), takeDeassertion_on record on, levelTaken,
      modCmd_modCmd, show (s.cmd k).ci = false from off]
    exact sendCmd_originates (s := s.modCmd k fun c => { c with
      qualified := false, qualTimer := none, outgoing := some releasing }) run (settled_of_lanes rfl settled) k false _
  · rw [if_neg (by rw [show (s.cmd k).ci = false from off]; decide), takeDeassertion_notOn record notOn, levelTaken,
      show (s.cmd k).ci = false from off]

/-! ### Repeats and answers (O47, O48) -/

theorem cmd_pushChange (s : State) (c : Change) (k : Fin 4) : (s.pushChange c).cmd k = s.cmd k :=
  congrArg (fun v : Vector Command 4 => v[k]) ((pushChange_touches s c).same .cmds (by decide))

/-- Settles O47 (R141, R142, R144). -/
theorem outgoingTimersExpire : Obligations.OutgoingTimersExpire := by
  refine ⟨fun k s u o high run settled here timer due => ?_, fun k s u o high here timer due awaiting => ?_⟩
  · intro far cmdFrame later
    have repeats : exec (.repeatTimerExpiry k) s = .next (repeatCmd k s) := by
      show execRepeatTimerExpiry k s = _
      rw [execRepeatTimerExpiry, running_high high]
      simp only [here, onExpiry_due timer due]
    have sends : ∀ (f : Command → Command) on, Originates [.A, .B] (cmdFrame (boolCode on)) (s.modCmd k f)
        (sendCmd k on o.activation (s.modCmd k f)) :=
      fun f on => sendCmd_originates (s := s.modCmd k f) run (settled_of_lanes rfl settled) k on o.activation
    refine ⟨_, repeats, fun on => ?_, fun releasing more => ?_, fun releasing last => ?_⟩
    all_goals simp only [repeatCmd, *, modOutgoing_eq here]
    · exact sends _ true
    · rw [if_neg (by omega)]
      exact sends _ false
    · exact sends _ false
  · refine ⟨expireAnswer k s, ?_, ?_⟩
    · show execAnswerTimerExpiry k s = _
      rw [execAnswerTimerExpiry, running_high high]
      simp only [here, onExpiry_due timer due]
    · simp only [expireAnswer, here, awaiting, modOutgoing_eq here]
      refine ⟨?_, pushChange_changes _ _, ?_,
        ((modCmd_touches s k _).mono (by decide)).trans ((pushChange_touches _ _).mono (by decide))⟩
      · rw [cmd_pushChange, State.cmd_modCmd_same]
      · exact fun j other => (cmd_pushChange _ _ j).trans (State.cmd_modCmd_other _ _ _ _ other)

theorem commandOf_number (k : Fin 4) : commandOf (BitVec.ofNat 8 (k.val + 1)) = some k := by
  fin_cases k <;> rfl

theorem commandOf_none {b : Byte} (h : ∀ k : Fin 4, b ≠ BitVec.ofNat 8 (k.val + 1)) : commandOf b = none := by
  unfold commandOf
  split
  · exact absurd (BitVec.eq_of_toNat_eq ‹_›) (h 0)
  · exact absurd (BitVec.eq_of_toNat_eq ‹_›) (h 1)
  · exact absurd (BitVec.eq_of_toNat_eq ‹_›) (h 2)
  · exact absurd (BitVec.eq_of_toNat_eq ‹_›) (h 3)
  · rfl

section
variable {k : Fin 4} {src : Nat} {body : Octets} {s : State} (names : oct body 0 = BitVec.ofNat 8 (k.val + 1))
include names

theorem receiveCmdAck_unexpected (h : (s.cmd k).outgoing = none ∨ src ≠ cmdFarStation (s.cmdSetting k)) :
    receiveCmdAck src body s = unexpectedCommand s := by
  have command : commandOf (oct body 0) = some k := by rw [names, commandOf_number]
  simp only [receiveCmdAck, command]
  split
  · rfl
  · rename_i o here
    exact if_neg fun same => h.elim (fun none => by rw [here] at none; cases none) fun other => other same.symm

theorem receiveCmdAck_judged {o : Outgoing} (here : (s.cmd k).outgoing = some o)
    (far : src = cmdFarStation (s.cmdSetting k)) : receiveCmdAck src body s =
      match judgeAnswer (oct body 1) (conditionsOf (oct body 2)) o with
      | some o' => s.modOutgoing k fun _ => o'
      | none => s.modStats fun c => { c with staleAnswers := bump c.staleAnswers } := by
  have command : commandOf (oct body 0) = some k := by rw [names, commandOf_number]
  simp only [receiveCmdAck, command, here]
  exact if_pos far.symm

end

theorem judgeAnswer_stale {act : BitVec 8} {o : Outgoing} (conditions : Conditions)
    (h : act ≠ o.activation ∨ (o.answer ≠ .awaiting ∧ o.answer ≠ .unanswered)) : judgeAnswer act conditions o = none := by
  unfold judgeAnswer
  split
  · rename_i same
    obtain ⟨notAwaiting, notUnanswered⟩ := h.resolve_left fun differs => differs same.symm
    split
    · exact absurd ‹_› notAwaiting
    · exact absurd ‹_› notUnanswered
    all_goals rfl
  · rfl

/-- Settles O48 (R138, R143). -/
theorem answerJudged : Obligations.AnswerJudged := by
  intro k src body s names t conditions
  refine ⟨fun unexpected => receiveCmdAck_unexpected names unexpected, fun o here far => ?_⟩
  have judged : t = _ := receiveCmdAck_judged names here far
  refine ⟨fun awaiting same => ?_, fun unanswered same => ?_, fun stale => ?_⟩
  · rw [judged, judgeAnswer, if_pos same.symm]
    simp only [awaiting, modOutgoing_eq here]
    rfl
  · rw [judged, judgeAnswer, if_pos same.symm]
    simp only [unanswered, modOutgoing_eq here]
    rfl
  · rw [judged, judgeAnswer_stale _ stale]
    rfl

/-! ### The records of received commands (O49 to O51) -/

theorem newer_iff (last : Option (BitVec 16)) (seq : BitVec 16) :
    newer last seq = true ↔ ∀ l, last = some l → 1 ≤ (seq - l).toNat ∧ (seq - l).toNat ≤ 32767 := by
  cases last <;> simp [newer]

section
variable {k : Fin 4} {s : State} {r : Incoming} (here : (s.cmd k).incoming = some r)
include here

/-- R150: a release to IDLE. -/
theorem releaseToIdle_eq : releaseToIdle k s = s.modCmd k fun c => { c with
    co := false
    incoming := some { r with state := .idle, activation := none, assertTime := none, persistence := none, hold := none } } :=
  modCmd_congr s k _ _ (by simp only [here, Option.map_some])

theorem beginRelease_held {a : Time} (start : r.assertTime = some a)
    (passed : cmdMinimumHold (s.cmdSetting k) * 10000 ≤ (s.now - a).toNat) : beginRelease k s = releaseToIdle k s := by
  simp only [beginRelease, here, start]
  exact if_pos passed

theorem beginRelease_holds {a : Time} (start : r.assertTime = some a)
    (early : (s.now - a).toNat < cmdMinimumHold (s.cmdSetting k) * 10000) : beginRelease k s = s.modCmd k fun c => { c with
      incoming := some { r with
        state := .holding, persistence := none
        hold := some (a + BitVec.ofNat 32 (cmdMinimumHold (s.cmdSetting k) * 10000)) } } := by
  simp only [beginRelease, here, start, modIncoming_eq here]
  exact if_neg (Nat.not_le.2 early)

theorem endActivation_active (active : r.state = .active) : endActivation k s = beginRelease k s := by
  simp only [endActivation, here, active]

theorem endActivation_refused (refused : r.state = .refused) : endActivation k s = releaseToIdle k s := by
  simp only [endActivation, here, refused]

theorem endActivation_stays (h : r.state = .idle ∨ r.state = .holding) : endActivation k s = s := by
  rcases h with h | h <;> simp only [endActivation, here, h]

/-- R149: an open cycle is answered. -/
theorem answerCycle_open {c : Cycle} (cycle : r.cycle = some c) (unanswered : c.answered = false) (taken : Bool) :
    answerCycle k taken s = sendCmdAck k c.activation ⟨taken, c.already, false⟩ (s.modCmd k fun x => { x with
      incoming := some { r with cycle := some { c with answered := true, window := none } } }) := by
  simp only [answerCycle, here, cycle, unanswered, modIncoming_eq here]
  rfl

end

theorem answerCycle_closed {k : Fin 4} {s : State}
    (h : ∀ r c, (s.cmd k).incoming = some r → r.cycle = some c → c.answered = true) (taken : Bool) :
    answerCycle k taken s = s := by
  unfold answerCycle
  split
  · rfl
  · rename_i r here
    split
    · rfl
    · rename_i c cycle
      exact if_pos (h r c here cycle)

theorem endActivation_others (k : Fin 4) (s : State) : OtherCommandsSame k s (endActivation k s) := by
  unfold endActivation
  split
  · exact .refl k s
  split
  · unfold beginRelease
    split
    · exact .refl k s
    · dsimp only
      split <;> exact modCmd_others s k _
  · exact modCmd_others s k _
  all_goals exact .refl k s

/-- Settles O50 (R150, R151). -/
theorem incomingTimersExpire : Obligations.IncomingTimersExpire := by
  intro k s r u high here due idle least
  refine ⟨fun timer => ?_, fun timer holding => ?_, fun timer => ?_⟩
  · let s1 := s.modIncoming k fun r => { r with persistence := none }
    have eq : s1 = _ := modIncoming_eq here _
    have record : (s1.cmd k).incoming = some { r with persistence := none } := by
      rw [eq, State.cmd_modCmd_same]
    refine ⟨endActivation k s1, ?_, fun a active start passed => ?_, fun a active start early => ?_, fun refused => ?_, ?_,
      (modIncoming_touches s k _).trans (endActivation_touches k s1)⟩
    · show execPersistenceTimerExpiry k s = _
      rw [execPersistenceTimerExpiry, running_high high]
      simp only [here, onExpiry_due timer due]
      rfl
    · rw [endActivation_active record active, beginRelease_held record start passed, releaseToIdle_eq record, eq, modCmd_modCmd,
        State.cmd_modCmd_same]
    · rw [endActivation_active record active, beginRelease_holds record start early, eq, modCmd_modCmd,
        State.cmd_modCmd_same]
      rfl
    · rw [endActivation_refused record refused, releaseToIdle_eq record, eq, modCmd_modCmd, State.cmd_modCmd_same]
    · exact (modCmd_others s k _).trans (endActivation_others k s1)
  · refine ⟨releaseToIdle k s, ?_, ?_, modCmd_others s k _, releaseToIdle_touches k s⟩
    · show execHoldTimerExpiry k s = _
      rw [execHoldTimerExpiry, running_high high]
      simp only [here, onExpiry_due timer due, holding]
      rfl
    · rw [releaseToIdle_eq here, State.cmd_modCmd_same]
  · refine ⟨s.modIncoming k fun r => { r with lastSeq := none, seqTimer := none }, ?_, ?_, modCmd_others s k _,
      modIncoming_touches s k _⟩
    · show execSequenceTimerExpiry k s = _
      rw [execSequenceTimerExpiry, running_high high]
      simp only [here, onExpiry_due timer due]
    · rw [modIncoming_eq here, State.cmd_modCmd_same]

/-- Settles O51 (R147, R149). -/
theorem answerCycleEnds : Obligations.AnswerCycleEnds := by
  refine ⟨fun k s r c high run settled here cycle unanswered => ?_, fun k s level high ends => ?_, fun s level => ?_⟩
  · intro already ack done
    have codes : ∀ taken, Conditions.code ⟨taken, c.already, false⟩ = (if taken then 1 else 0) ||| already := fun taken => by
      simp only [already]
      cases taken <;> cases c.already <;> rfl
    refine ⟨⟨answerCycle k true (s.modCmd k fun x => { x with tk := true }), ?_, ?_⟩, fun u window due =>
      ⟨answerCycle k false s, ?_, ?_⟩⟩
    · show execTkChange k true s = _
      rw [execTkChange, if_neg (by simp [high])]
    · rw [answerCycle_open (by rw [State.cmd_modCmd_same]; exact here) cycle unanswered, modCmd_modCmd]
      have sends := sendCmdAck_originates (s := s.modCmd k fun x => { x with tk := true, incoming := done }) run
        (settled_of_lanes rfl settled) k c.activation ⟨true, c.already, false⟩
      rw [codes] at sends
      exact sends
    · show execTakenWindowExpiry k s = _
      rw [execTakenWindowExpiry, running_high high]
      simp only [here, cycle, onExpiry_due window due]
    · rw [answerCycle_open here cycle unanswered]
      have sends := sendCmdAck_originates (s := s.modCmd k fun x => { x with incoming := done }) run
        (settled_of_lanes rfl settled) k c.activation ⟨false, c.already, false⟩
      rw [codes] at sends
      exact sends
  · show execTkChange k level s = _
    unfold execTkChange
    dsimp only
    rcases ends with rfl | closed
    · rw [if_pos (by simp)]
    · rw [answerCycle_closed (by rw [State.cmd_modCmd_same]; exact closed), ite_self]
  · refine ⟨_, rfl, rfl, fun x hx => ?_⟩
    cases x <;> first | rfl | simp at hx

/-! ### Received commands (O49) -/

section
variable {k : Fin 4} {src : Nat} {seq : BitVec 16} {body : Octets} {s : State}
  (names : oct body 0 = BitVec.ofNat 8 (k.val + 1))
include names

theorem receiveCmd_unexpected (h : (s.cmd k).incoming = none ∨ src ≠ cmdFarStation (s.cmdSetting k) ∨
    ∃ r, (s.cmd k).incoming = some r ∧ newer r.lastSeq seq = false) : receiveCmd src seq body s = unexpectedCommand s := by
  have command : commandOf (oct body 0) = some k := by rw [names, commandOf_number]
  simp only [receiveCmd, command]
  split
  · rfl
  · rename_i r here
    refine if_neg fun ⟨far, fresh⟩ => ?_
    rcases h with none | other | ⟨r', here', old⟩
    · rw [here] at none
      cases none
    · exact other far.symm
    · rw [here] at here'
      cases here'
      rw [old] at fresh
      cases fresh

/-- R138: the record of a command whose CMD has been accepted. -/
theorem receiveCmd_accepted {r : Incoming} (here : (s.cmd k).incoming = some r) (far : src = cmdFarStation (s.cmdSetting k))
    (fresh : newer r.lastSeq seq = true) : receiveCmd src seq body s =
      if (oct body 1).getLsbD 0 then acceptOn k (oct body 2) (s.modCmd k fun c => { c with
        incoming := some { r with lastSeq := some seq, seqTimer := some (s.after 2000000) } })
      else endActivation k (s.modCmd k fun c => { c with
        incoming := some { r with lastSeq := some seq, seqTimer := some (s.after 2000000) } }) := by
  have command : commandOf (oct body 0) = some k := by rw [names, commandOf_number]
  simp only [receiveCmd, command, here, modIncoming_eq here]
  exact if_pos ⟨far.symm, fresh⟩

end

section
variable {k : Fin 4} {s : State} {r : Incoming} (here : (s.cmd k).incoming = some r)
include here

/-- R149: a cycle starts unanswered where TKk is low. -/
theorem startCycle_waits (low : (s.cmd k).tk = false) (act : BitVec 8) (already : Bool) : startCycle k act already s =
    s.modCmd k fun c => { c with incoming := some { r with
      cycle := some ⟨act, already, false, some (s.after (cmdTakenWindow (s.cmdSetting k) * 10000))⟩ } } := by
  simp only [startCycle, low, modIncoming_eq here]
  rfl

/-- R149: TKk high at the start of a cycle answers it at once. -/
theorem startCycle_answers (high : (s.cmd k).tk = true) (act : BitVec 8) (already : Bool) : startCycle k act already s =
    sendCmdAck k act ⟨true, already, false⟩ (s.modCmd k fun c => { c with
      incoming := some { r with cycle := some ⟨act, already, true, none⟩ } }) := by
  simp only [startCycle, high, modIncoming_eq here, if_true]
  rw [answerCycle_open (by rw [State.cmd_modCmd_same]) rfl rfl, modCmd_modCmd]

/-- R146: an ON activates the command where BLOCK is deasserted. -/
theorem activate_unblocked (free : s.block = false) (act : BitVec 8) : activate k act s =
    (startCycle k act false (s.modCmd k fun c => { c with
      co := true
      incoming := some { r with
        state := .active, activation := some act, assertTime := some s.now
        persistence := some (s.after 100000) } })).pushChange (.cmdReceived k act) := by
  unfold activate
  dsimp only
  rw [if_neg (by rw [free]; decide)]
  exact congrArg (fun x => (startCycle k act false x).pushChange (.cmdReceived k act))
    (modCmd_congr s k _ _ (by simp only [here, Option.map_some]; rfl))

/-- R147: an ON is refused where BLOCK is asserted. -/
theorem activate_blocked (blocked : s.block = true) (act : BitVec 8) : activate k act s =
    sendCmdAck k act ⟨false, false, true⟩ (s.modCmd k fun c => { c with
      incoming := some { r with
        state := .refused, activation := some act, persistence := some (s.after 100000)
        cycle := abandonOpen r.cycle } }) := by
  simp only [activate, blocked, modIncoming_eq here, if_true]
  rfl

theorem acceptOn_idle (idle : r.state = .idle) (act : BitVec 8) : acceptOn k act s = activate k act s := by
  simp only [acceptOn, here, idle]

theorem acceptOn_refused (refused : r.state = .refused) {act : BitVec 8} (other : r.activation ≠ some act) :
    acceptOn k act s = activate k act s := by
  simp only [acceptOn, here, refused]
  exact if_neg other

/-- R148: an ON of the present activation restarts the persistence timer. -/
theorem acceptOn_again (state : r.state = .active ∨ r.state = .refused) {act : BitVec 8} (same : r.activation = some act) :
    acceptOn k act s = s.modCmd k fun c => { c with incoming := some { r with persistence := some (s.after 100000) } } := by
  rcases state with state | state
  · simp only [acceptOn, here, state, modIncoming_eq here]
    rw [if_pos same, ← same]
    rfl
  · simp only [acceptOn, here, state, modIncoming_eq here]
    exact if_pos same

/-- R148: a new activation of an ACTIVE record, and any of a HOLDING one, opens a cycle marked ALREADY. -/
theorem acceptOn_already {act : BitVec 8} {x : Incoming}
    (state : (r.state = .active ∧ r.activation ≠ some act ∧
        x = { r with persistence := some (s.after 100000), activation := some act }) ∨
      (r.state = .holding ∧ x = { r with
        state := .active, hold := none, persistence := some (s.after 100000), activation := some act })) :
    acceptOn k act s = startCycle k act true (s.modCmd k fun c => { c with incoming := some x }) := by
  rcases state with ⟨state, other, rfl⟩ | ⟨state, rfl⟩
  · simp only [acceptOn, here, state, modIncoming_eq here]
    exact if_neg other
  · simp only [acceptOn, here, state, modIncoming_eq here]
    rfl

end

theorem abandonOpen_eq (c : Option Cycle) :
    abandonOpen c = match c with | none => none | some x => if x.answered then some x else none := by
  cases c with
  | none => rfl
  | some x => cases answered : x.answered <;> simp [abandonOpen, answered]

/-- Settles O49 (R138, R146 to R151). -/
theorem commandReceived : Obligations.CommandReceived := by
  refine ⟨fun k src seq body s names => ?_, fun src seq body s unnamed => ?_⟩
  · intro t act far isNewer cmdAck window
    refine ⟨fun unexpected => receiveCmd_unexpected names ?_, fun r here same fresh => ?_⟩
    · refine unexpected.imp_right (Or.imp_right ?_)
      rintro ⟨r, here, old⟩
      exact ⟨r, here, by rw [Bool.eq_false_iff, Ne, newer_iff]; exact old⟩
    intro accepted seen becomes
    have eq : t = _ := receiveCmd_accepted (body := body) names here same ((newer_iff r.lastSeq seq).2 fresh)
    have sends : ∀ co x (conditions : Conditions), s.ctl.station = .run → Settled s →
        Originates [.A, .B] (cmdAck conditions.code) (becomes co x) (sendCmdAck k act conditions (becomes co x)) :=
      fun co x conditions run settled =>
        sendCmdAck_originates (s := becomes co x) run (settled_of_lanes rfl settled) k act conditions
    generalize hm : (s.modCmd k fun c => { c with
      incoming := some { r with lastSeq := some seq, seqTimer := some (s.after 2000000) } }) = m at eq
    have record : (m.cmd k).incoming = some accepted := by rw [← hm, State.cmd_modCmd_same]
    have pins : ∀ x, ((m.modCmd k fun c => { c with incoming := some x }).cmd k).tk = (s.cmd k).tk := fun x => by
      rw [State.cmd_modCmd_same, ← hm, State.cmd_modCmd_same]
    have after : ∀ n, m.after n = s.after n := fun n => by rw [← hm]; rfl
    have now : m.now = s.now := by rw [← hm]; rfl
    have setTo : ∀ co x, (m.modCmd k fun c => { c with co := co, incoming := some x }) = becomes co x := fun co x => by
      rw [← hm, modCmd_modCmd]
    have kept : ∀ x : Incoming, (m.modCmd k fun c => { c with incoming := some x }) = becomes (s.cmd k).co x := fun x => by
      rw [← hm, modCmd_modCmd]
      exact modCmd_congr s k _ _ rfl
    refine ⟨fun on => ?_, fun off => ?_⟩
    · rw [if_pos on] at eq
      refine ⟨fun admits => ?_, fun state again => ?_, fun x state => ?_⟩
      · intro active
        have activates : t = activate k act m := eq.trans (by
          rcases admits with state | ⟨state, other⟩
          · exact acceptOn_idle record state act
          · exact acceptOn_refused record state other)
        have block : m.block = s.block := by rw [← hm]; rfl
        have becomesRecord : ∀ co x, ((becomes co x).cmd k).incoming = some x := fun co x => by
          rw [State.cmd_modCmd_same]
        have becomesPins : ∀ co x, ((becomes co x).cmd k).tk = (s.cmd k).tk := fun co x => by rw [State.cmd_modCmd_same]
        have again : ∀ co x y, ((becomes co x).modCmd k fun c => { c with incoming := some y }) = becomes co y :=
          fun co x y => modCmd_modCmd s k _ _
        refine ⟨fun free low => ?_, fun free highPin run settled => ?_, fun blocked run settled => ?_⟩
        · rw [activates, activate_unblocked record (block.trans free), setTo,
            startCycle_waits (becomesRecord _ _) ((becomesPins _ _).trans low), again, after, now, pushChange_eq]
          rfl
        · rw [activates, activate_unblocked record (block.trans free), setTo,
            startCycle_answers (becomesRecord _ _) ((becomesPins _ _).trans highPin), again, after, now]
          have sent := sends true (active ⟨act, false, true, none⟩) ⟨true, false, false⟩ run settled
          exact ⟨_, sent, originates_pushChange sent _⟩
        · rw [activates, activate_blocked record (block.trans blocked), kept, after, abandonOpen_eq]
          exact sends _ _ ⟨false, false, true⟩ run settled
      · rw [eq, acceptOn_again record state again, kept, after]
      · have opens : t = startCycle k act true (m.modCmd k fun c => { c with incoming := some x }) :=
          eq.trans (acceptOn_already record (by rw [after]; exact state))
        have given : ((m.modCmd k fun c => { c with incoming := some x }).cmd k).incoming = some x := by
          rw [State.cmd_modCmd_same]
        refine ⟨fun low => ?_, fun highPin run settled => ?_⟩
        · rw [opens, startCycle_waits given ((pins x).trans low), modCmd_modCmd, kept, ← hm]
          rfl
        · rw [opens, startCycle_answers given ((pins x).trans highPin), modCmd_modCmd, kept]
          exact sends _ _ ⟨true, true, false⟩ run settled
    · intro idle least
      rw [if_neg (by rw [off]; decide)] at eq
      have setting : cmdMinimumHold (m.cmdSetting k) * 10000 = least := by rw [← hm]; rfl
      refine ⟨fun a active start passed => ?_, fun a active start early => ?_, fun refused => ?_, fun stays => ?_⟩
      · rw [eq, endActivation_active record active, beginRelease_held record start (by rw [setting, now]; exact passed),
          releaseToIdle_eq record, setTo]
      · rw [eq, endActivation_active record active, beginRelease_holds record start (by rw [setting, now]; exact early),
          kept, setting]
      · rw [eq, endActivation_refused record refused, releaseToIdle_eq record, setTo]
      · rw [eq, endActivation_stays record stays, ← hm]
        exact modCmd_congr s k _ _ rfl
  · intro counted
    have command : commandOf (oct body 0) = none := commandOf_none unnamed
    exact ⟨by simp only [receiveCmd, command]; rfl, by simp only [receiveCmdAck, command]; rfl⟩

end Sys2Proof.Machine
end

section
/-! The query responder (chapter 9): loop queries, the change queue, the counters and RESTART. -/

namespace Sys2Proof.Machine

open Sys2Proof.Safety

/-! ### Queries and replies -/

theorem query_taken {s : State} {q : QueryHead} (high : s.rstLow = false) (run : s.ctl.station = .run)
    (named : s.ctl.number = some q.dst.toNat) (f : State → State) :
    (.next (s.running fun x => x.queried q f) : Result) = .next (f s) := by
  rw [running_high high, State.queried, run, named]
  simp

theorem reply_originates {s : State} (run : s.ctl.station = .run) (settled : Settled s) (code : Byte) (q : QueryHead)
    (status : Byte) (record : Octets) :
    Originates [.A, .B] (ownFrame .qryR q.src.toNat ([code, q.index] ++ be16 q.tag ++ [status, 0] ++ record) s) s
      (reply code q status record s) :=
  originate_originates run settled (by decide) (by decide) _ _

/-- R157: a refusal, its record empty. -/
theorem refuse_originates {s : State} (run : s.ctl.station = .run) (settled : Settled s) (code : Byte) (q : QueryHead) :
    Originates [.A, .B] (ownFrame .qryR q.src.toNat ([code, q.index] ++ be16 q.tag ++ [1, 0] ++ []) s) s
      (refuse code q s) := reply_originates run settled code q 1 []

theorem indexPort_val {index : Byte} {p : Fin 8} (h : index.toNat = p.val) : indexPort index = some p := by
  have below : index.toNat < 8 := h ▸ p.isLt
  simp only [indexPort, below, dif_pos]
  exact congrArg some (Fin.ext h)

theorem indexPort_beyond {index : Byte} (h : 8 ≤ index.toNat) : indexPort index = none := dif_neg (by omega)

/-! ### Loop queries (O37) -/

/-- R97, R98: a port whose loop has been changed. -/
def looped (want : LoopState) (q : Port) : Port :=
  { q with
    engine := q.engine.emptied
    circuit := { q.circuit with state := .flush, flushCount := 0, loop := want }
    tx := if want = .line then { q.tx with store := [], sentBits := 0 } else q.tx }

section
variable {p : Fin 8} {s : State} {want : LoopState}

theorem requestLoop_set (h : (s.port p).circuit.loop = want) : requestLoop want p s = s := by
  rw [requestLoop, h, beq_self_eq_true, if_pos rfl]

/-- R97, R98: a loop that differs is set, and the circuit goes to FLUSH. -/
theorem requestLoop_changed (h : (s.port p).circuit.loop ≠ want) : requestLoop want p s =
    { s.modPort p (looped want) with
      changes := withEntry s.now (.circuitState p .flush) s.changes } := by
  rw [requestLoop, if_neg (by simpa using h), toFlush, modPort_modPort, pushChange_eq]
  exact congrArg (withChanges _) (modPort_congr s p (by cases want <;> rfl))

theorem requestLoop_loop : ((requestLoop want p s).port p).circuit.loop = want := by
  by_cases h : (s.port p).circuit.loop = want
  · rw [requestLoop_set h, h]
  · rw [requestLoop_changed h]
    exact congrArg (·.circuit.loop) (State.port_modPort_same s p (looped want))

theorem answerLoop_refused (code : Byte) {q : QueryHead} (index : q.index.toNat = p.val) (off : (s.port p).enabled = false) :
    answerLoop code want q s = refuse code q s := by
  simp only [answerLoop, indexPort_val index, off]
  rfl

theorem answerLoop_accepted (code : Byte) {q : QueryHead} (index : q.index.toNat = p.val) (on : (s.port p).enabled = true) :
    answerLoop code want q s = accept code q [want.code] (requestLoop want p s) := by
  simp only [answerLoop, indexPort_val index, on, requestLoop_loop, if_true]

end

/-- Settles O37 (R97, R98, R157, R162). -/
theorem loopQueries : Obligations.LoopQueries := by
  intro code want c kind
  have event : ∀ q s, exec (c q) s = .next (s.running fun x => x.queried q (answerLoop code want q)) := by
    simp only [List.mem_cons, Prod.mk.injEq, List.not_mem_nil, or_false] at kind
    rcases kind with ⟨rfl, rfl, rfl⟩ | ⟨rfl, rfl, rfl⟩ | ⟨rfl, rfl, rfl⟩ <;> exact fun _ _ => rfl
  refine ⟨fun q s high run settled named beyond => ⟨_, (event q s).trans (query_taken high run named _), ?_⟩,
    fun q p s high run settled named index => ?_⟩
  · simp only [answerLoop, indexPort_beyond beyond]
    have refused := refuse_originates run settled code q
    rw [List.append_nil] at refused
    exact refused
  · intro old loopCode moved answer
    have shown : loopCode = want.code := by cases want <;> rfl
    refine ⟨_, (event q s).trans (query_taken high run named _), fun on differs => ?_, fun on same => ?_, fun off => ?_⟩
    · rw [answerLoop_accepted code index on, requestLoop_changed differs, shown,
        show s.modPort p (fun _ => moved) = s.modPort p (looped want) from modPort_congr s p rfl]
      exact reply_originates (s := withChanges _ (s.modPort p (looped want))) run (settled_of_lanes rfl settled) code q 0 _
    · rw [answerLoop_accepted code index on, requestLoop_set same, shown]
      exact reply_originates run settled code q 0 _
    · rw [answerLoop_refused code index off]
      exact refuse_originates run settled code q

/-! ### Octets read from a record -/

theorem oct_drop (o : Octets) (n i : Nat) : oct (o.drop n) i = oct o (n + i) := by
  simp only [oct, List.getD_eq_getElem?_getD, List.getElem?_drop]

theorem rd32_drop (o : Octets) (n i : Nat) : rd32 (o.drop n) i = rd32 o (n + i) := by
  simp only [rd32, rd16, oct_drop, Nat.add_assoc]

theorem rd32_at {o rest : Octets} {i : Nat} {v : BitVec 32} (h : o.drop i = be32 v ++ rest) : rd32 o i = v := by
  have read := rd32_append [] rest 0 rfl v
  rwa [List.nil_append, ← h, rd32_drop] at read

theorem rd16_at {o rest : Octets} {i : Nat} {v : BitVec 16} (h : o.drop i = be16 v ++ rest) : rd16 o i = v := by
  have read := rd16_append [] rest 0 rfl v
  rw [List.nil_append, ← h] at read
  simpa only [rd16, oct_drop, Nat.add_zero, Nat.zero_add] using read

/-- Words one after another. -/
theorem wordsAt_of_drop {o rest : Octets} {i : Nat} {ws : List (BitVec 32)}
    (h : o.drop i = (ws.map be32).flatten ++ rest) : WordsAt o i ws := by
  induction ws generalizing i with
  | nil => intro j w hw; simp at hw
  | cons v ws ih =>
    rw [List.map_cons, List.flatten_cons, List.append_assoc] at h
    intro j w hw
    cases j with
    | zero =>
      cases hw
      exact rd32_at h
    | succ j =>
      have next := ih (i := i + 4) (by rw [← List.drop_drop, h]; rfl) j w hw
      rwa [show i + 4 + 4 * j = i + 4 * (j + 1) by omega] at next

/-! ### The change queue (O53) -/

theorem length_changeOctets (c : Change) : c.octets.length = 6 := by cases c <;> rfl

theorem length_changeEntry (e : ChangeEntry) : e.octets.length = 10 := by
  rw [ChangeEntry.octets, List.length_append, length_changeOctets]
  rfl

theorem drop_changeEntries (taken : List ChangeEntry) {i : Nat} {e : ChangeEntry} (h : taken[i]? = some e) :
    ∃ rest, (taken.map ChangeEntry.octets).flatten.drop (10 * i) = e.octets ++ rest := by
  induction taken generalizing i with
  | nil => simp at h
  | cons x taken ih =>
    cases i with
    | zero =>
      cases h
      exact ⟨_, rfl⟩
    | succ i =>
      have length := length_changeEntry x
      obtain ⟨rest, next⟩ := ih h
      refine ⟨rest, ?_⟩
      rw [List.map_cons, List.flatten_cons, show 10 * (i + 1) = x.octets.length + 10 * i by omega, ← List.drop_drop,
        List.drop_left, next]

/-- A word of which only the last octet is used. -/
theorem word_of_last (b : Byte) : ((0 : Byte) ++ (0 : Byte) : BitVec 16) ++ ((0 : Byte) ++ b : BitVec 16) = b.setWidth 32 := by
  have bits : ∀ i, (((0 : Byte) ++ (0 : Byte) : BitVec 16) ++ ((0 : Byte) ++ b : BitVec 16)).getLsbD i =
      (b.setWidth 32).getLsbD i := fun i => by
    simp only [BitVec.getLsbD_append, BitVec.getLsbD_setWidth]
    by_cases low : i < 8
    · simp [low, show i < 16 by omega, show i < 32 by omega]
    · simp [low, BitVec.getLsbD_of_ge b i (by omega)]
  exact BitVec.eq_of_getLsbD_eq fun i _ => bits i

/-- Section 11.4: kind code, subject and value of an entry, with the six octets that hold them. -/
theorem changeOctets_read (c : Change) (rest : Octets) :
    let o := c.octets ++ rest
    let lane (L : Lane) : Nat := match L with | .A => 1 | .B => 2
    ((oct o 0).toNat, oct o 1, rd32 o 2) = (match c with
      | .circuitState p x => (1, BitVec.ofNat 8 p.val, match x with
          | .off => 0 | .wait => 1 | .flush => 2 | .prefill => 3 | .play => 4)
      | .laneSwitch p L => (2, BitVec.ofNat 8 p.val, BitVec.ofNat 32 (lane L))
      | .asymmetry p b => (3, BitVec.ofNat 8 p.val, if b then 1 else 0)
      | .budget p b => (4, BitVec.ofNat 8 p.val, if b then 1 else 0)
      | .laneOpen L => (5, BitVec.ofNat 8 (lane L), 0)
      | .laneClosed L size => (6, BitVec.ofNat 8 (lane L), BitVec.ofNat 32 (size % 256))
      | .peerPresent j L => (7, BitVec.ofNat 8 j, BitVec.ofNat 32 (lane L))
      | .peerAbsent j => (8, BitVec.ofNat 8 j, 0)
      | .cmdSent k a => (9, BitVec.ofNat 8 (k.val + 1), a.setWidth 32)
      | .cmdUnanswered k a => (10, BitVec.ofNat 8 (k.val + 1), a.setWidth 32)
      | .cmdReceived k a => (11, BitVec.ofNat 8 (k.val + 1), a.setWidth 32)
      | .clash L v => (12, BitVec.ofNat 8 (lane L), v)) := by
  intro o lane
  have last : ∀ (x y z : Byte), o = [x, y, 0, 0, 0, z] ++ rest → rd32 o 2 = z.setWidth 32 := fun x y z h => by
    rw [h]
    exact word_of_last z
  have code : ∀ L : Lane, laneCode (some L) = BitVec.ofNat 8 (lane L) := fun L => by cases L <;> rfl
  cases c with
  | circuitState p x => rw [last _ _ _ rfl]; cases x <;> rfl
  | laneSwitch p L => rw [last _ _ _ rfl]; cases L <;> rfl
  | asymmetry p b => rw [last _ _ _ rfl]; cases b <;> rfl
  | budget p b => rw [last _ _ _ rfl]; cases b <;> rfl
  | laneOpen L => rw [last _ _ _ rfl]; cases L <;> rfl
  | laneClosed L n =>
    rw [last _ _ _ rfl, show (be8 n).setWidth 32 = BitVec.ofNat 32 (n % 256) by
      apply BitVec.eq_of_toNat_eq; simp [be8]]
    cases L <;> rfl
  | peerPresent j L => rw [last _ _ _ rfl]; cases L <;> rfl
  | peerAbsent j => rw [last _ _ _ rfl]; rfl
  | cmdSent k a => rw [last _ _ _ rfl]; rfl
  | cmdUnanswered k a => rw [last _ _ _ rfl]; rfl
  | cmdReceived k a => rw [last _ _ _ rfl]; rfl
  | clash L v =>
    rw [show rd32 o 2 = v from rd32_at (rest := rest) rfl]
    cases L <;> rfl

theorem drainRecord_isDrainRecord (taken : List ChangeEntry) (overflow : Bool) :
    IsDrainRecord taken overflow (drainRecord taken overflow) := by
  refine ⟨?_, rfl, rfl, fun i e here => ?_⟩
  · have lengths : (taken.map ChangeEntry.octets).flatten.length = 10 * taken.length := by
      induction taken with
      | nil => rfl
      | cons x taken ih =>
        have length := length_changeEntry x
        rw [List.map_cons, List.flatten_cons, List.length_append, length, ih, List.length_cons]
        omega
    rw [drainRecord, List.length_append, lengths]
    rfl
  · obtain ⟨rest, entry⟩ := drop_changeEntries taken here
    have entryAt : (drainRecord taken overflow).drop (2 + 10 * i) = be32 e.time ++ (e.what.octets ++ rest) := by
      rw [← List.drop_drop, show (drainRecord taken overflow).drop 2 = (taken.map ChangeEntry.octets).flatten from rfl, entry,
        ChangeEntry.octets, List.append_assoc]
    have whatAt : (drainRecord taken overflow).drop (6 + 10 * i) = e.what.octets ++ rest := by
      rw [show 6 + 10 * i = 2 + 10 * i + 4 by omega, ← List.drop_drop, entryAt]
      rfl
    refine ⟨rd32_at entryAt, ?_⟩
    have read := changeOctets_read e.what rest
    rw [← whatAt] at read
    simp only [oct_drop, rd32_drop] at read
    rw [show 7 + 10 * i = 6 + 10 * i + 1 by omega, show 8 + 10 * i = 6 + 10 * i + 2 by omega]
    exact read

/-- Settles O53 (R166 to R169). -/
theorem changeQueueRule : Obligations.ChangeQueueRule := by
  refine ⟨fun c s => ⟨fun room => ?_, fun full => ?_⟩, fun q s high run settled named => ?_, drainRecord_isDrainRecord⟩
  · rw [pushChange_eq, withEntry, if_pos room]
  · rw [pushChange_eq, withEntry, if_neg (by omega)]
  · intro rest
    exact ⟨_, query_taken high run named _,
      reply_originates (s := withChanges s.changes.drained s) run (settled_of_lanes rfl settled) 5 q 0 _⟩

/-! ### Counters (O54) -/

theorem bump_toNat (c : Counter) : (bump c).toNat = min (c.toNat + 1) 4294967295 := by
  unfold bump
  split
  · next full => rw [eq_of_beq full]; rfl
  · next room =>
    have differs : c.toNat ≠ 4294967295 := fun h => room (beq_iff_eq.2 (BitVec.eq_of_toNat_eq h))
    have bound := c.isLt
    rw [BitVec.toNat_add, show (1 : Counter).toNat = 1 from rfl]
    omega

/-- Settles O54 (R163, R164). -/
theorem countersRule : Obligations.CountersRule := by
  refine ⟨bump_toNat, fun q s high run settled named => ⟨clearCounters s, _, query_taken high run named _, fun L => ?_, rfl,
    fun p => ?_, clearCounters_touches s, ?_⟩⟩
  · exact PerLane.get_map _ s.lanes L
  · exact State.port_mapPorts _ _ p
  · have cleared : Settled (clearCounters s) := settled_of_queues (fun M => by
      rw [show (clearCounters s).forwarder M = _ from PerLane.get_map _ s.lanes M]
      exact ⟨rfl, rfl, rfl⟩) settled
    exact reply_originates (s := clearCounters s) run cleared 9 q 0 []

/-! ### RESTART (O55) -/

/-- Settles O55 (R165). -/
theorem restartTaken : Obligations.RestartTaken := by
  intro q s high run named
  refine ⟨warmRestart s, query_taken high run named _, rfl, fun L => ⟨?_, ?_⟩, fun i => Vector.getElem_replicate i.isLt, rfl,
    rfl, rfl, fun p on => ?_, fun p off => ?_, fun k => ?_, rfl, rfl, ?_⟩
  · exact PerLane.get_map _ s.lanes L
  · exact PerLane.get_both _ L
  · intro q' r
    have started : q' = (s.port p).startWait r := by rw [show q' = _ from warmRestart_port s p, if_pos on]
    rw [started]
    exact ⟨rfl, rfl, rfl, fun i => Vector.getElem_replicate i.isLt, rfl, rfl, rfl, rfl, rfl⟩
  · rw [warmRestart_port, if_neg (by rw [off]; decide)]
  · rw [warmRestart, State.cmd_mapCmds]
    exact ⟨rfl, rfl, rfl, rfl, rfl⟩
  · intro x hx
    cases x <;> first | rfl | simp at hx

end Sys2Proof.Machine
end

section
/-! The records of the read queries, octet by octet (section 11.4). -/

namespace Sys2Proof.Machine

open Sys2Proof.Safety

/-! ### The counters and the station's record -/

theorem laneCounters_octets (c : LaneCounters) : c.octets =
    (([c.framesReceived, c.checkFailures, c.malformed, c.stripped, c.framesDelivered, c.hopExpired,
      c.framesForwarded, c.transitDrops, c.localDrops, c.framesSent] : List (BitVec 32)).map be32).flatten := by
  simp only [LaneCounters.octets, List.map_cons, List.map_nil, List.flatten_cons, List.flatten_nil, List.append_nil,
    List.append_assoc]

theorem lanePartAt_of_drop {o rest : Octets} {i : Nat} {m : MarkLane} {c : LaneCounters}
    (h : o.drop i = stationLanePart m c ++ rest) : LanePartAt o i m c := by
  have at' : ∀ j, oct o (i + j) = oct (stationLanePart m c ++ rest) j := fun j => by rw [← oct_drop, h]
  refine ⟨(at' 0).trans ?_, at' 1, wordsAt_of_drop (rest := rest) ?_⟩
  · show m.state.code = _
    cases m.state <;> rfl
  · rw [← List.drop_drop, h, ← laneCounters_octets]
    rfl

theorem length_lanePart (m : MarkLane) (c : LaneCounters) : (stationLanePart m c).length = 42 := rfl

theorem length_stationCounters (c : StationCounters) : c.octets.length = 32 := rfl

theorem stationCounters_octets (c : StationCounters) : c.octets =
    (([c.duplicateDiscards, c.staleDiscards, c.unexpectedCircuit, c.classMismatch,
      c.staleEchoes, c.invalidEchoes, c.unexpectedCommands, c.staleAnswers] : List (BitVec 32)).map be32).flatten := by
  simp only [StationCounters.octets, List.map_cons, List.map_nil, List.flatten_cons, List.flatten_nil, List.append_nil,
    List.append_assoc]

/-- The parts of the READ-STATION record one after another. -/
theorem stationRecord_parts (s : State) : stationRecord s =
    [be8 (s.ctl.number.getD 0), s.ctl.station.code] ++ (be32 s.now ++ ([be8 s.peers.length, 0] ++
      (stationLanePart s.marks.a s.lanes.a.counts ++ (stationLanePart s.marks.b s.lanes.b.counts ++
        (s.stats.octets ++ [be8 s.changes.entries.length, boolCode s.changes.overflow]))))) := by
  simp only [stationRecord, List.append_assoc]

theorem stationRecord_isStationRecord (s : State) : IsStationRecord s (stationRecord s) := by
  rw [stationRecord_parts]
  generalize ho : [be8 (s.ctl.number.getD 0), s.ctl.station.code] ++ _ = o
  have laneA : o.drop 8 = stationLanePart s.marks.a s.lanes.a.counts ++
      (stationLanePart s.marks.b s.lanes.b.counts ++
        (s.stats.octets ++ [be8 s.changes.entries.length, boolCode s.changes.overflow])) := by rw [← ho]; rfl
  have laneB : o.drop 50 = stationLanePart s.marks.b s.lanes.b.counts ++
      (s.stats.octets ++ [be8 s.changes.entries.length, boolCode s.changes.overflow]) := by
    rw [show 50 = 8 + 42 from rfl, ← List.drop_drop, laneA, List.drop_left' (length_lanePart _ _)]
  have stats : o.drop 92 = s.stats.octets ++ [be8 s.changes.entries.length, boolCode s.changes.overflow] := by
    rw [show 92 = 50 + 42 from rfl, ← List.drop_drop, laneB, List.drop_left' (length_lanePart _ _)]
  have last : o.drop 124 = [be8 s.changes.entries.length, boolCode s.changes.overflow] := by
    rw [show 124 = 92 + 32 from rfl, ← List.drop_drop, stats, List.drop_left' (length_stationCounters _)]
  have length : o.length = 126 := by
    rw [← ho]
    simp only [List.length_append, length_lanePart, length_stationCounters]
    rfl
  have start : ∀ j, oct o j = oct ([be8 (s.ctl.number.getD 0), s.ctl.station.code] ++ _) j := fun j => by rw [ho]
  refine ⟨length, start 0, (start 1).trans ?_, ?_, start 6, start 7, lanePartAt_of_drop laneA, lanePartAt_of_drop laneB,
    wordsAt_of_drop stats, ?_, ?_⟩
  · show s.ctl.station.code = _
    cases s.ctl.station <;> rfl
  · rw [← ho]
    exact rd32_append _ _ 2 rfl _
  · exact (oct_drop o 124 0).symm.trans (by rw [last]; rfl)
  · exact (oct_drop o 124 1).symm.trans (by rw [last]; rfl)

/-! ### The circuit's record -/

theorem flags_of_five (a b c d e : Bool) (i : Fin 8) :
    (flagBit 0 a ||| flagBit 1 b ||| flagBit 2 c ||| flagBit 3 d ||| flagBit 4 e).getLsbD i.val =
      [a, b, c, d, e, false, false, false].getD i.val false := by
  revert a b c d e i
  decide

theorem circuitCounters_octets (n : CircuitCounters) : n.octets =
    (([n.cellsAssembled, n.srcLostCells, n.lineLosses, n.cellsAccepted, n.duplicateCells, n.late, n.slips,
      n.missing, n.starvations, n.flushedCells, n.playedA, n.playedB, n.laneSwitches, n.otherLaneCells] :
        List (BitVec 32)).map be32).flatten := by
  simp only [CircuitCounters.octets, List.map_cons, List.map_nil, List.flatten_cons, List.flatten_nil, List.append_nil,
    List.append_assoc]

theorem length_circuitCounters (n : CircuitCounters) : n.octets.length = 56 := by
  have word : ∀ v : BitVec 32, (be32 v).length = 4 := fun _ => rfl
  simp only [CircuitCounters.octets, List.length_append, word]

/-- Octets 8 to 37 of the record of an enabled circuit. -/
def circuitLivePart (q : Port) : Octets :=
  let c := q.circuit
  [c.state.code, be8 c.flushCount, laneCode c.current, be8 c.tally.run,
    flagBit 0 c.asymmetric ||| flagBit 1 c.overBudget ||| flagBit 2 c.revert.isSome |||
      flagBit 3 q.engine.position.isSome ||| flagBit 4 c.delay.isSome,
    c.loop.code] ++ (optTime c.revert ++ ([q.rx.line.code, 0] ++ (be16 (BitVec.ofNat 16 q.engine.fill) ++
    (be16 ((q.engine.position.map (·.count)).getD 0) ++
    (be16 (BitVec.ofNat 16 ((q.engine.position.map (·.offset)).getD 0)) ++
    (beInt32 q.clk.applied ++ (beInt32 q.clk.held ++ optWord c.delay)))))))

theorem circuitRecordOf_on (r : CircuitRecord) {q : Port} (on : q.enabled = true) :
    circuitRecordOf r q = circuitImagePart r ++ (circuitLivePart q ++ q.counts.octets) := by
  rw [circuitRecordOf, if_pos on]
  simp only [circuitLivePart, List.append_assoc]

theorem circuitRecordOf_off (r : CircuitRecord) {q : Port} (off : q.enabled = false) :
    circuitRecordOf r q = circuitImagePart r ++ (zeros 10 ++ ([q.rx.line.code, 0] ++ zeros 74)) := by
  rw [circuitRecordOf, if_neg (by rw [off]; decide)]
  simp only [List.append_assoc]

theorem oct_zeros (n i : Nat) : oct (zeros n) i = 0 := by
  simp only [oct, zeros, List.getD_eq_getElem?_getD, List.getElem?_replicate]
  split <;> rfl

theorem circuitRecordOf_length (r : CircuitRecord) (q : Port) : (circuitRecordOf r q).length = 94 := by
  cases on : q.enabled
  · rw [circuitRecordOf_off r on]
    simp only [List.length_append, zeros, List.length_replicate]
    rfl
  · rw [circuitRecordOf_on r on]
    simp only [List.length_append, length_circuitCounters]
    rfl

theorem circuitRecordOf_image (r : CircuitRecord) (q : Port) {j : Nat} (below : j < 8) :
    oct (circuitRecordOf r q) j = oct (circuitImagePart r) j := by
  cases on : q.enabled
  · rw [circuitRecordOf_off r on, oct_append_left _ _ _ below]
  · rw [circuitRecordOf_on r on, oct_append_left _ _ _ below]

theorem lineState_code (x : LineState) : x.code = (match x with | .present => 0 | .lost => 1) := by cases x <;> rfl

/-- R160: a disabled port sends nothing but its image part and its line state. -/
theorem circuitRecordOf_disabled (r : CircuitRecord) {q : Port} (off : q.enabled = false) :
    oct (circuitRecordOf r q) 18 = q.rx.line.code ∧
      ∀ i, 8 ≤ i → i < 94 → i ≠ 18 → oct (circuitRecordOf r q) i = 0 := by
  rw [circuitRecordOf_off r off]
  refine ⟨oct_append_add _ _ 8 10 rfl, fun i from8 below other => ?_⟩
  obtain ⟨j, rfl⟩ := Nat.exists_eq_add_of_le from8
  rw [oct_append_add _ _ 8 j rfl]
  by_cases early : j < 10
  · rw [oct_append_left _ _ _ early, oct_zeros]
  obtain ⟨m, rfl⟩ := Nat.exists_eq_add_of_le (Nat.le_of_not_lt early)
  rw [oct_append_add _ _ 10 m rfl]
  rcases m with _ | _ | l
  · exact absurd rfl other
  · rfl
  · rw [show l + 1 + 1 = 2 + l by omega, oct_append_add _ _ 2 l rfl, oct_zeros]

section
variable (r : CircuitRecord) {q : Port} (on : q.enabled = true)
include on

theorem circuitRecordOf_live {j : Nat} (below : j < 30) :
    oct (circuitRecordOf r q) (8 + j) = oct (circuitLivePart q) j := by
  rw [circuitRecordOf_on r on, oct_append_add _ _ 8 j rfl, oct_append_left _ _ _ below]

theorem circuitRecordOf_live16 {j : Nat} (below : j < 29) :
    rd16 (circuitRecordOf r q) (8 + j) = rd16 (circuitLivePart q) j := by
  rw [rd16, rd16, circuitRecordOf_live r on (by omega), Nat.add_assoc, circuitRecordOf_live r on (by omega)]

theorem circuitRecordOf_live32 {j : Nat} (below : j < 27) :
    rd32 (circuitRecordOf r q) (8 + j) = rd32 (circuitLivePart q) j := by
  rw [rd32, rd32, circuitRecordOf_live16 r on (by omega), Nat.add_assoc, circuitRecordOf_live16 r on (by omega)]

theorem circuitRecordOf_counts : (circuitRecordOf r q).drop 38 = q.counts.octets := by
  rw [circuitRecordOf_on r on, show 38 = 8 + 30 from rfl, ← List.drop_drop,
    List.drop_left' (show (circuitImagePart r).length = 8 from rfl),
    List.drop_left' (show (circuitLivePart q).length = 30 from rfl)]

end

theorem circuitRecordOf_isCircuitRecord (r : CircuitRecord) (q : Port) : IsCircuitRecord r q (circuitRecordOf r q) := by
  refine ⟨circuitRecordOf_length r q, ?_, ?_, circuitRecordOf_image r q (by decide), circuitRecordOf_image r q (by decide),
    circuitRecordOf_image r q (by decide), circuitRecordOf_image r q (by decide), ?_, fun off => ?_, fun on => ?_⟩
  · rw [circuitRecordOf_image r q (by decide)]
    show (recClass r).code = _
    cases recClass r <;> rfl
  · rw [circuitRecordOf_image r q (by decide)]
    show (recMode r).code = _
    cases recMode r <;> rfl
  · rw [rd16, circuitRecordOf_image r q (by decide), circuitRecordOf_image r q (by decide)]
    exact be16_read _
  · obtain ⟨line, others⟩ := circuitRecordOf_disabled r off
    exact ⟨line.trans (lineState_code _), others⟩
  · have live {j : Nat} (below : j < 30) := circuitRecordOf_live r on below
    have live16 {j : Nat} (below : j < 29) := circuitRecordOf_live16 r on below
    have live32 {j : Nat} (below : j < 27) := circuitRecordOf_live32 r on below
    refine ⟨(live (j := 0) (by decide)).trans ?_, live (j := 1) (by decide), (live (j := 2) (by decide)).trans ?_,
      live (j := 3) (by decide), fun i => ?_, (live (j := 5) (by decide)).trans ?_,
      (live32 (j := 6) (by decide)).trans (be32_read _),
      (live (j := 10) (by decide)).trans (lineState_code _), live (j := 11) (by decide),
      (live16 (j := 12) (by decide)).trans (be16_read _), (live16 (j := 14) (by decide)).trans (be16_read _),
      (live16 (j := 16) (by decide)).trans (be16_read _), (live32 (j := 18) (by decide)).trans (be32_read _),
      (live32 (j := 22) (by decide)).trans (be32_read _), (live32 (j := 26) (by decide)).trans (be32_read _),
      wordsAt_of_drop (rest := []) (by rw [circuitRecordOf_counts r on, List.append_nil, circuitCounters_octets])⟩
    · show q.circuit.state.code = _
      cases q.circuit.state <;> rfl
    · show laneCode q.circuit.current = _
      rcases q.circuit.current with _ | _ | _ <;> rfl
    · rw [live (j := 4) (by decide)]
      exact flags_of_five _ _ _ _ _ i
    · show q.circuit.loop.code = _
      cases q.circuit.loop <;> rfl

/-! ### The peer's record -/

theorem flags_of_peerLane (a c d : Bool) (i : Fin 8) :
    (flagBit 0 a ||| flagBit 2 c ||| flagBit 3 d).getLsbD i.val =
      [a, false, c, d, false, false, false, false].getD i.val false := by
  revert a c d i
  decide

theorem length_words (l : List (BitVec 32)) : ((l.map be32).flatten).length = 4 * l.length := by
  induction l with
  | nil => rfl
  | cons v l ih =>
    rw [List.map_cons, List.flatten_cons, List.length_append, ih, List.length_cons]
    exact (by omega : 4 + 4 * l.length = 4 * (l.length + 1))

/-- A word of a list that zeros follow. -/
theorem rd32_padded (l : List Nat) (n i : Nat) :
    rd32 (padTo n (l.map fun x => be32 (BitVec.ofNat 32 x)).flatten) (4 * i) = BitVec.ofNat 32 (l.getD i 0) := by
  have padded : ∀ o j, rd32 (padTo n o) j = rd32 o j := fun o j => by simp only [rd32, rd16, oct_padTo]
  have words : (l.map fun x => be32 (BitVec.ofNat 32 x)).flatten = ((l.map (BitVec.ofNat 32)).map be32).flatten := by
    rw [List.map_map]
    rfl
  rw [padded, words]
  by_cases here : i < l.length
  · have read := wordsAt_of_drop (o := ((l.map (BitVec.ofNat 32)).map be32).flatten) (i := 0) (rest := [])
      (by rw [List.drop_zero, List.append_nil]) i (BitVec.ofNat 32 l[i]) (by simp [here])
    rw [Nat.zero_add] at read
    rw [read]
    simp [here]
  · have beyond : ∀ j, oct ((l.map (BitVec.ofNat 32)).map be32).flatten (4 * i + j) = 0 := fun j =>
      oct_beyond _ _ (by rw [length_words, List.length_map]; omega)
    simp only [rd32, rd16, Nat.add_assoc, beyond]
    rw [show oct ((l.map (BitVec.ofNat 32)).map be32).flatten (4 * i) = 0 from beyond 0,
      List.getD_eq_default _ _ (by omega)]
    rfl

/-- Octets 0 to 11 of a lane part of READ-PEER. -/
def peerLaneHead (l : PeerLane) : Octets :=
  [flagBit 0 l.present ||| flagBit 2 l.outstanding.isSome ||| flagBit 3 l.figure.isSome, optOctet l.hop,
    be8 l.missed, be8 l.samples.length] ++ (optTime l.outstanding ++ optWord l.figure)

theorem peerLane_octets (l : PeerLane) : l.octets =
    peerLaneHead l ++ padTo 32 ((l.samples.map fun x => be32 (BitVec.ofNat 32 x)).flatten) := by
  simp only [PeerLane.octets, peerLaneHead, List.append_assoc]

theorem length_peerLane (l : PeerLane) (few : l.samples.length ≤ 8) : l.octets.length = 44 := by
  have words : ((l.samples.map fun x => be32 (BitVec.ofNat 32 x)).flatten).length = 4 * l.samples.length := by
    have count := length_words (l.samples.map (BitVec.ofNat 32))
    rwa [List.map_map, List.length_map] at count
  rw [peerLane_octets, List.length_append, padTo, List.length_append, words]
  simp only [zeros, List.length_replicate]
  exact (by omega : 12 + (4 * l.samples.length + (32 - 4 * l.samples.length)) = 44)

theorem peerPartAt_of_drop {o rest : Octets} {i : Nat} {l : PeerLane} (few : l.samples.length ≤ 8)
    (h : o.drop i = l.octets ++ rest) : PeerPartAt o i l := by
  have at44 : ∀ j < 44, oct o (i + j) = oct l.octets j := fun j below => by
    rw [← oct_drop, h, oct_append_left _ _ _ (by rw [length_peerLane l few]; exact below)]
  have at32 : ∀ j < 41, rd32 o (i + j) = rd32 l.octets j := fun j below => by
    simp only [rd32, rd16, Nat.add_assoc]
    rw [at44 j (by omega), at44 (j + 1) (by omega), at44 (j + 2) (by omega), at44 (j + (2 + 1)) (by omega)]
  have head : ∀ j < 12, oct l.octets j = oct (peerLaneHead l) j := fun j below => by
    rw [peerLane_octets, oct_append_left _ _ _ below]
  refine ⟨fun b => ?_, ?_, ?_, ?_, ?_, ?_, fun j => ?_⟩
  · rw [show oct o i = _ from (at44 0 (by decide)).trans (head 0 (by decide))]
    exact flags_of_peerLane _ _ _ b
  · exact (at44 1 (by decide)).trans (head 1 (by decide))
  · exact (at44 2 (by decide)).trans (head 2 (by decide))
  · exact (at44 3 (by decide)).trans (head 3 (by decide))
  · rw [at32 4 (by decide), rd32, rd16, rd16, head 4 (by decide), head 5 (by decide), head 6 (by decide), head 7 (by decide)]
    exact be32_read _
  · rw [at32 8 (by decide), rd32, rd16, rd16, head 8 (by decide), head 9 (by decide), head 10 (by decide),
      head 11 (by decide)]
    exact be32_read _
  · rw [Nat.add_assoc, at32 (12 + 4 * j.val) (by omega), peerLane_octets, ← rd32_drop,
      List.drop_left' (show (peerLaneHead l).length = 12 from rfl)]
    exact rd32_padded l.samples 32 j.val

theorem peer_isPeerRecord (r : Peer) : IsPeerRecord r r.octets := by
  intro few
  have few : ∀ L, (r.lanes.get L).samples.length ≤ 8 := few
  have lanes : r.octets.drop 4 = (r.lanes.get .A).octets ++ (r.lanes.get .B).octets := rfl
  have laneB : r.octets.drop 48 = (r.lanes.get .B).octets ++ [] := by
    rw [show 48 = 4 + 44 from rfl, ← List.drop_drop, lanes, List.drop_left' (length_peerLane _ (few .A)), List.append_nil]
  refine ⟨?_, rfl, rfl, rfl, rfl, peerPartAt_of_drop (few .A) lanes, peerPartAt_of_drop (few .B) laneB⟩
  rw [Peer.octets, List.length_append, List.length_append]
  exact congrArg₂ (fun a b => 4 + a + b) (length_peerLane _ (few .A)) (length_peerLane _ (few .B))

/-! ### The command's record -/

theorem flags_of_two (a b : Bool) (i : Fin 8) : (flagBit 0 a ||| flagBit 1 b).getLsbD i.val =
    [a, b, false, false, false, false, false, false].getD i.val false := by
  revert a b i
  decide

theorem flags_of_four (a b c d : Bool) (i : Fin 8) :
    (flagBit 0 a ||| flagBit 1 b ||| flagBit 2 c ||| flagBit 3 d).getLsbD i.val =
      [a, b, c, d, false, false, false, false].getD i.val false := by
  revert a b c d i
  decide

theorem conditions_bits (d : Conditions) (i : Fin 8) : (d.code ||| flagBit 7 true).getLsbD i.val =
    [d.taken, d.already, d.blocked, false, false, false, false, true].getD i.val false := by
  obtain ⟨a, b, c⟩ := d
  revert a b c i
  decide

section
variable (r : CommandRecord) (c : Command)

theorem length_outgoing : (outgoingOctets c.outgoing).length = 6 := by cases c.outgoing <;> rfl

theorem length_incoming : (incomingOctets c.incoming).length = 12 := by
  rcases c.incoming with _ | ⟨_, _, _, _, _, _, _, _ | _⟩ <;> rfl

theorem commandRecordOf_outgoing {j : Nat} (below : j < 6) :
    oct (commandRecordOf r c) (4 + j) = oct (outgoingOctets c.outgoing) j := by
  rw [commandRecordOf, List.append_assoc, oct_append_add _ _ 4 j rfl,
    oct_append_left _ _ _ (by rw [length_outgoing]; exact below)]

theorem commandRecordOf_incoming (j : Nat) : oct (commandRecordOf r c) (10 + j) = oct (incomingOctets c.incoming) j := by
  rw [commandRecordOf, oct_append_add _ _ 10 j]
  rw [List.length_append, length_outgoing]
  rfl

theorem length_commandRecord : (commandRecordOf r c).length = 22 := by
  rw [commandRecordOf, List.length_append, List.length_append, length_outgoing, length_incoming]
  rfl

/-- Octets 4 to 9 of READ-COMMAND. -/
theorem outgoingOctets_read (x : Outgoing) :
    let o := outgoingOctets (some x)
    oct o 0 = (match x.activity with | .idle => 0 | .on => 1 | .releasing => 2) ∧ oct o 1 = x.activation ∧
    oct o 2 = (match x.answer with
      | .none => 0 | .awaiting => 1 | .answered => 2 | .answeredLate => 3 | .unanswered => 4) ∧
    (x.conditions = none → oct o 3 = 0) ∧
    (∀ d, x.conditions = some d → ∀ i : Fin 8, (oct o 3).getLsbD i.val =
      [d.taken, d.already, d.blocked, false, false, false, false, true].getD i.val false) ∧
    oct o 4 = BitVec.ofNat 8 x.offLeft ∧ oct o 5 = 0 := by
  intro o
  refine ⟨?_, rfl, ?_, fun absent => ?_, fun d given i => ?_, rfl, rfl⟩
  · show x.activity.code = _
    cases x.activity <;> rfl
  · show x.answer.code = _
    cases x.answer <;> rfl
  · show (match x.conditions with | none => 0 | some c => c.code ||| flagBit 7 true) = 0
    rw [absent]
  · rw [show oct o 3 = d.code ||| flagBit 7 true by
      show (match x.conditions with | none => 0 | some c => c.code ||| flagBit 7 true) = _
      rw [given]]
    exact conditions_bits d i

/-- Octets 10 to 21 of READ-COMMAND. -/
theorem incomingOctets_read (x : Incoming) :
    let o := incomingOctets (some x)
    oct o 0 = (match x.state with | .idle => 0 | .active => 1 | .holding => 2 | .refused => 3) ∧
    (∀ i : Fin 8, (oct o 1).getLsbD i.val = [x.lastSeq.isSome, x.activation.isSome, x.assertTime.isSome,
      x.cycle.isSome, false, false, false, false].getD i.val false) ∧
    rd16 o 2 = x.lastSeq.getD 0 ∧ oct o 4 = x.activation.getD 0 ∧
    (x.cycle = none → oct o 5 = 0 ∧ oct o 6 = 0) ∧
    (∀ d, x.cycle = some d → oct o 5 = d.activation ∧ ∀ i : Fin 8, (oct o 6).getLsbD i.val =
      [d.already, d.answered, false, false, false, false, false, false].getD i.val false) ∧
    oct o 7 = 0 ∧ rd32 o 8 = x.assertTime.getD 0 := by
  obtain ⟨state, lastSeq, seqTimer, activation, assertTime, persistence, hold, cycle⟩ := x
  refine ⟨?_, fun i => flags_of_four _ _ _ _ i, ?_⟩
  · cases state <;> rfl
  · cases cycle with
    | none => exact ⟨be16_read _, rfl, fun _ => ⟨rfl, rfl⟩, fun d given => (by cases given), rfl, be32_read _⟩
    | some d =>
      refine ⟨be16_read _, rfl, fun absent => (by cases absent), fun d' given => ?_, rfl, be32_read _⟩
      cases given
      exact ⟨rfl, flags_of_two _ _⟩

theorem commandRecordOf_isCommandRecord : IsCommandRecord r c (commandRecordOf r c) := by
  have out {j : Nat} (below : j < 6) := commandRecordOf_outgoing r c below
  have inc (j : Nat) := commandRecordOf_incoming r c j
  refine ⟨length_commandRecord r c, ?_, ?_, ?_, fun i => flags_of_two _ _ i, fun absent i from4 below => ?_, fun x here => ?_,
    fun absent i from10 below => ?_, fun x here => ?_⟩
  · show (cmdDirection r).code = _
    cases cmdDirection r <;> rfl
  · show (match cmdDirection r with
      | .disabled => 0
      | .send | .receive | .both => be8 (cmdFarStation r % 64)) = _
    cases cmdDirection r <;> rfl
  · show boolCode (c.qualified && c.outgoing.isSome) = _
    cases c.qualified <;> cases c.outgoing.isSome <;> rfl
  · obtain ⟨j, rfl⟩ := Nat.exists_eq_add_of_le from4
    rw [out (by omega), absent]
    exact oct_zeros 6 j
  · have read {j : Nat} (below : j < 6) : oct (commandRecordOf r c) (4 + j) = oct (outgoingOctets (some x)) j := by
      rw [out below, here]
    obtain ⟨activity, activation, answer, absent, given, offLeft, last⟩ := outgoingOctets_read x
    refine ⟨(read (j := 0) (by decide)).trans activity, (read (j := 1) (by decide)).trans activation,
      (read (j := 2) (by decide)).trans answer, fun none => (read (j := 3) (by decide)).trans (absent none),
      fun d some i => ?_, (read (j := 4) (by decide)).trans offLeft, (read (j := 5) (by decide)).trans last⟩
    rw [show oct (commandRecordOf r c) 7 = _ from read (j := 3) (by decide)]
    exact given d some i
  · obtain ⟨j, rfl⟩ := Nat.exists_eq_add_of_le from10
    rw [inc, absent]
    exact oct_zeros 12 j
  · have read (j : Nat) : oct (commandRecordOf r c) (10 + j) = oct (incomingOctets (some x)) j := by rw [inc, here]
    have read32 : rd32 (commandRecordOf r c) 18 = rd32 (incomingOctets (some x)) 8 :=
      (rd32_drop _ 10 8).symm.trans (by simp only [rd32, rd16, oct_drop, read])
    have read16 : rd16 (commandRecordOf r c) 12 = rd16 (incomingOctets (some x)) 2 :=
      congrArg₂ (· ++ ·) (read 2) (read 3)
    obtain ⟨state, flags, lastSeq, activation, absent, given, zero, assertTime⟩ := incomingOctets_read x
    refine ⟨(read 0).trans state, fun i => ?_, read16.trans lastSeq, (read 4).trans activation,
      fun none => ⟨(read 5).trans (absent none).1, (read 6).trans (absent none).2⟩,
      fun d some => ⟨(read 5).trans (given d some).1, fun i => ?_⟩, (read 7).trans zero, read32.trans assertTime⟩
    · rw [show oct (commandRecordOf r c) 11 = _ from read 1]
      exact flags i
    · rw [show oct (commandRecordOf r c) 16 = _ from read 6]
      exact (given d some).2 i

end

/-! ### The read queries (O52) -/

theorem indexCommand_val {index : Byte} {k : Fin 4} (h : index.toNat = k.val + 1) : indexCommand index = some k := by
  have range : 1 ≤ index.toNat ∧ index.toNat ≤ 4 := by omega
  simp only [indexCommand, range, and_self, dif_pos]
  exact congrArg some (Fin.ext (show index.toNat - 1 = k.val by omega))

theorem indexCommand_beyond {index : Byte} (h : index = 0 ∨ 4 < index.toNat) : indexCommand index = none := by
  refine dif_neg fun ⟨least, most⟩ => ?_
  rcases h with rfl | above
  · exact absurd least (by decide)
  · omega

/-- R156: a kind code that names no query is refused. -/
theorem respond_unknown {s : State} {q : QueryHead} (run : s.ctl.station = .run) (named : s.ctl.number = some q.dst.toNat)
    {code : Byte} (unknown : ∀ n : Nat, 1 ≤ n → n ≤ 10 → code.toNat ≠ n) : respond code q s = refuse code q s := by
  rw [respond, State.queried, run, named, if_pos (by simp)]
  split
  case h_11 => rfl
  all_goals next h => exact absurd h (unknown _ (by decide) (by decide))

/-- Settles O52 (R156 to R161, R183). -/
theorem readQueriesAnswered : Obligations.ReadQueriesAnswered := by
  refine ⟨fun q s high run settled named => ?_, stationRecord_isStationRecord, circuitRecordOf_isCircuitRecord,
    peer_isPeerRecord, commandRecordOf_isCommandRecord⟩
  intro answer
  have accepted : ∀ code record, Originates [.A, .B] (answer code 0 record) s (accept code q record s) :=
    fun code record => reply_originates run settled code q 0 record
  have refused : ∀ code, Originates [.A, .B] (answer code 1 []) s (refuse code q s) :=
    fun code => refuse_originates run settled code q
  refine ⟨⟨_, query_taken high run named _, accepted 1 _⟩,
    ⟨_, query_taken high run named _, fun p index => ?_, fun beyond => ?_⟩,
    ⟨_, query_taken high run named _, fun r here => ?_, fun beyond => ?_⟩,
    ⟨_, query_taken high run named _, fun k index => ?_, fun beyond => ?_⟩,
    fun code unknown => ⟨refuse code q s, ?_, refused code⟩⟩
  · simp only [answerReadCircuit, indexPort_val index]
    exact accepted 2 _
  · simp only [answerReadCircuit, indexPort_beyond beyond]
    exact refused 2
  · simp only [answerReadPeer, here]
    exact accepted 3 _
  · simp only [answerReadPeer, List.getElem?_eq_none beyond]
    exact refused 3
  · simp only [answerReadCommand, indexCommand_val index]
    exact accepted 4 _
  · simp only [answerReadCommand, indexCommand_beyond beyond]
    exact refused 4
  · show execUnknownQueryKind code q s = _
    rw [execUnknownQueryKind, running_high high, respond_unknown run named unknown]

end Sys2Proof.Machine
end

section
/-! Echoes (chapter 7): rounds, answers, and the replies that match. -/

namespace Sys2Proof.Machine

open Sys2Proof.Safety

/-! ### An echo round (O42) -/

/-- A frame joins the queue of a lane that is sending and has room. -/
theorem offer_joins {s : State} {L : Lane} (f : Octets) (sending : (s.forwarder L).egress ≠ .idle)
    (room : (s.forwarder L).localQ.length < 12) :
    offer f L s = s.modForwarder L fun l => { l with localQ := l.localQ ++ [f] } := by
  obtain ⟨l, offered, -, eq⟩ := offer_sending f sending
  rw [Offered, if_neg sending, if_pos room] at offered
  rw [eq, offered, State.modForwarder, State.modForwarder]
  rfl

/-- The ECHO to a peer that takes the `k`-th sequence value from here. -/
def echoFrame (s : State) (k : Nat) (r : Peer) : Octets :=
  buildFrame .echo (s.ctl.number.getD 0) r.station (s.ctl.sequence + BitVec.ofNat 16 k) (List.replicate 47 0)

theorem ownFrame_echo (s : State) (r : Peer) : ownFrame .echo r.station (zeros 4) s = echoFrame s 0 r := by
  rw [echoFrame, show s.ctl.sequence + BitVec.ofNat 16 0 = s.ctl.sequence from BitVec.add_zero _]
  rfl

/-- A queue that frames have joined. -/
def Forwarder.joined (fs : List Octets) (l : Forwarder) : Forwarder := { l with localQ := l.localQ ++ fs }

theorem originate_echo_joins {s : State} {L : Lane} (run : s.ctl.station = .run) (sending : (s.forwarder L).egress ≠ .idle)
    (room : (s.forwarder L).localQ.length < 12) (r : Peer) :
    originate .echo r.station (zeros 4) [L] s = (sequenceTaken s).modForwarder L (Forwarder.joined [echoFrame s 0 r]) := by
  rw [originate_run run, ownFrame_echo]
  exact offer_joins (s := sequenceTaken s) (echoFrame s 0 r) sending room

/-- Both lanes are sending and have room for `n` frames more. -/
def SendingWithRoom (n : Nat) (s : State) : Prop :=
  ∀ L : Lane, (s.forwarder L).egress ≠ .idle ∧ (s.forwarder L).localQ.length + n ≤ 12

/-- The place of a lane's ECHO among the two of a peer (log entry 10). -/
def echoPlace : Lane → Nat
  | .A => 0
  | .B => 1

theorem echoFrame_succ (s : State) (k : Nat) (r : Peer) : echoFrame (sequenceTaken s) k r = echoFrame s (k + 1) r := by
  rw [echoFrame, echoFrame, sequenceTaken]
  dsimp only
  rw [BitVec.add_assoc, show (1 : BitVec 16) + BitVec.ofNat 16 k = BitVec.ofNat 16 (k + 1) by
    rw [show (1 : BitVec 16) = BitVec.ofNat 16 1 from rfl, ← BitVec.ofNat_add, Nat.add_comm]]

theorem echoPeer_joins {s : State} {n : Nat} (run : s.ctl.station = .run) (ready : SendingWithRoom (n + 1) s) (r : Peer) :
    let t := echoPeer r s
    (∀ L, t.forwarder L = (s.forwarder L).joined [echoFrame s (echoPlace L) r]) ∧
    t.ctl = (sequenceTaken (sequenceTaken s)).ctl ∧ Touches [.ctl, .lanes] s t := by
  intro t
  obtain ⟨sendingA, roomA⟩ := ready .A
  obtain ⟨sendingB, roomB⟩ := ready .B
  let m := (sequenceTaken s).modForwarder .A (Forwarder.joined [echoFrame s 0 r])
  have kept : m.forwarder .B = s.forwarder .B := State.forwarder_modForwarder_other _ _ _ _ (by decide)
  have eq : t = (sequenceTaken m).modForwarder .B (Forwarder.joined [echoFrame m 0 r]) := by
    show originate .echo r.station (zeros 4) [.B] (originate .echo r.station (zeros 4) [.A] s) = _
    rw [originate_echo_joins run sendingA (by omega)]
    exact originate_echo_joins (s := m) run (by rw [kept]; exact sendingB) (by rw [kept]; omega) r
  rw [eq]
  refine ⟨fun L => ?_, rfl, ((ctl_touches s _).mono (by decide)).trans
    (((modForwarder_touches (sequenceTaken s) .A _).mono (by decide)).trans (((ctl_touches m _).mono (by decide)).trans
      ((modForwarder_touches _ _ _).mono (by decide))))⟩
  cases L with
  | A =>
    rw [State.forwarder_modForwarder_other _ _ _ _ (by decide)]
    exact State.forwarder_modForwarder_same (sequenceTaken s) .A _
  | B =>
    rw [State.forwarder_modForwarder_same, show echoFrame m 0 r = echoFrame (sequenceTaken s) 0 r from rfl, echoFrame_succ]
    exact congrArg _ kept

theorem echoRound_joins (peers : List Peer) {s : State} (run : s.ctl.station = .run)
    (ready : SendingWithRoom peers.length s) :
    let t := peers.foldl (fun x r => echoPeer r x) s
    (∀ L, t.forwarder L =
      (s.forwarder L).joined (peers.mapIdx fun i r => echoFrame s (2 * i + echoPlace L) r)) ∧
    t.ctl = { s.ctl with sequence := s.ctl.sequence + BitVec.ofNat 16 (2 * peers.length) } ∧
    Touches [.ctl, .lanes] s t := by
  induction peers generalizing s with
  | nil =>
    refine ⟨fun L => ?_, ?_, .refl _ _⟩
    · exact (congrArg (fun q => ({ s.forwarder L with localQ := q } : Forwarder)) (List.append_nil _)).symm
    · exact congrArg (fun q => ({ s.ctl with sequence := q } : Controller)) (BitVec.add_zero _).symm
  | cons r peers ih =>
    obtain ⟨queues, ctl, touched⟩ := echoPeer_joins run ready r
    have left : SendingWithRoom peers.length (echoPeer r s) := fun L => by
      obtain ⟨sending, room⟩ := ready L
      rw [queues]
      refine ⟨sending, ?_⟩
      simp only [Forwarder.joined, List.length_append, List.length_cons, List.length_nil] at *
      omega
    obtain ⟨queues', ctl', touched'⟩ := ih (s := echoPeer r s) (by rw [ctl]; exact run) left
    have later : ∀ k x, echoFrame (echoPeer r s) k x = echoFrame s (k + 1 + 1) x := fun k x => by
      rw [← echoFrame_succ, ← echoFrame_succ, echoFrame, ctl]
      rfl
    refine ⟨fun L => ?_, ?_, touched.trans touched'⟩
    · rw [List.foldl_cons, queues', queues, List.mapIdx_cons]
      simp only [Forwarder.joined, List.append_assoc, later, Nat.mul_add, Nat.mul_zero, Nat.zero_add, List.singleton_append]
      refine congrArg (fun q => ({ s.forwarder L with localQ := _ ++ _ :: q } : Forwarder)) ?_
      exact congrArg (fun f => List.mapIdx f peers) (by funext i x; congr 1; omega)
    · rw [List.foldl_cons, ctl', ctl]
      refine congrArg (fun q => ({ s.ctl with sequence := q } : Controller)) ?_
      show s.ctl.sequence + 1 + 1 + BitVec.ofNat 16 (2 * peers.length) = s.ctl.sequence + BitVec.ofNat 16 (2 * (peers.length + 1))
      rw [Nat.mul_add, Nat.add_comm (2 * _), BitVec.ofNat_add, BitVec.add_assoc s.ctl.sequence,
        BitVec.add_assoc s.ctl.sequence]
      rfl

/-- The station at the moments of an echo round: before its first ECHO, after the first, and so on. -/
def echoMoment (s : State) (n : Nat) : State :=
  let whole := (s.peers.take (n / 2)).foldl (fun x r => echoPeer r x) s
  match n % 2, s.peers[n / 2]? with
  | 1, some r => originate .echo r.station (zeros 4) [.A] whole
  | _, _ => whole

theorem echoMoment_whole (s : State) (i : Nat) :
    echoMoment s (2 * i) = (s.peers.take i).foldl (fun x r => echoPeer r x) s := by
  simp [echoMoment]

theorem echoMoment_between {s : State} {i : Nat} {r : Peer} (here : s.peers[i]? = some r) :
    echoMoment s (2 * i + 1) = originate .echo r.station (zeros 4) [.A] (echoMoment s (2 * i)) := by
  rw [echoMoment_whole, echoMoment, show (2 * i + 1) / 2 = i by omega, show (2 * i + 1) % 2 = 1 by omega, here]
  rfl

theorem echoMoment_next {s : State} {i : Nat} {r : Peer} (here : s.peers[i]? = some r) :
    echoMoment s (2 * i + 2) = originate .echo r.station (zeros 4) [.B] (echoMoment s (2 * i + 1)) := by
  rw [echoMoment_between here, show 2 * i + 2 = 2 * (i + 1) by omega, echoMoment_whole, echoMoment_whole, List.take_add_one,
    here, List.foldl_append]
  rfl

theorem exec_echoRound {s : State} {u : Time} (high : s.rstLow = false) (timer : s.echoTimer = some u)
    (due : expired s.now u = true) :
    exec .echoRound s = .next (echoRound { s with echoTimer := some (u + BitVec.ofNat 32 (s.image.echoPeriod * 10000)) }) := by
  show execEchoRound s = _
  rw [execEchoRound, running_high high]
  simp only [timer, reach_expired due]
  rfl

/-- Settles O42 (R120, R124). -/
theorem echoesSentAndAnswered : Obligations.EchoesSentAndAnswered := by
  refine ⟨fun s u high run timer due room => ?_, fun s u high timer due => ?_, fun L src dst body s run settled =>
    ⟨fun named => ?_, fun other => ?_⟩⟩
  · intro echo
    let begun : State := { s with echoTimer := some (u + BitVec.ofNat 32 (s.image.echoPeriod * 10000)) }
    have begins : Touches [.echoTimer] s begun := fun x hx => by cases x <;> first | rfl | simp at hx
    obtain ⟨queues, ctl, touched⟩ := echoRound_joins s.peers (s := begun) run room
    exact ⟨_, exec_echoRound high timer due, queues .A, queues .B, ctl, touched.same .echoTimer (by decide),
      (begins.mono (by decide)).trans (touched.mono (by decide))⟩
  · let begun : State := { s with echoTimer := some (u + BitVec.ofNat 32 (s.image.echoPeriod * 10000)) }
    refine ⟨_, echoMoment begun, exec_echoRound high timer due, rfl, fun i r here =>
      ⟨echoMoment_between here, echoMoment_next here⟩, ?_⟩
    show echoMoment begun (2 * begun.peers.length) = echoRound begun
    rw [echoMoment_whole, List.take_length]
    rfl
  · rw [answerEcho, if_pos named]
    exact originate_originates run settled (by simp) (by decide) _ _
  · rw [answerEcho, if_neg other]

/-! ### Replies (O43) -/

theorem matchEcho_stale {L : Lane} {src : Nat} {body : Octets} {s : State}
    (h : ∀ i r, s.peerIndex src = some i → s.peers[i]? = some r → (r.lanes.get L).outstanding ≠ some (rd32 body 0)) :
    matchEcho L src body s = { s with stats := { s.stats with staleEchoes := bump s.stats.staleEchoes } } := by
  unfold matchEcho
  dsimp only
  split
  · rfl
  · rename_i i index
    split
    · rfl
    · rename_i r here
      exact if_neg (h i r index here)

/-- Settles O43 (R122, R125 to R128, R130). -/
theorem echoesMatchedOrMissed : Obligations.EchoesMatchedOrMissed := by
  refine ⟨fun i L s r high run here missed => ?_, fun L src body s unknown => ?_,
    fun L src body s i r here named first => ?_⟩
  · have unmeasured : unmeasure i.val L s = setSamples i.val L [] s := by
      simp only [unmeasure, here, missed, if_true]
    refine ⟨unmeasure i.val L s, ?_, ?_, unmeasure_touches _ _ _⟩
    · show execEchoUnmeasured i L s = _
      rw [execEchoUnmeasured, running_high high, run]
      rfl
    · rw [unmeasured]
      exact setSamples_spec i.val L [] s r here
  · exact matchEcho_stale fun i r index => by
      rw [peerIndex_none unknown] at index
      cases index
  · intro part t rtt samples
    have index := peerIndex_of here named first
    refine ⟨fun other => matchEcho_stale fun j x found at' => ?_, fun same invalid => ?_, fun same least most => ?_⟩
    · rw [index] at found
      cases found
      rw [here] at at'
      cases at'
      exact other
    · show matchEcho L src body s = _
      simp only [matchEcho, index, here]
      rw [if_pos same, if_neg (fun ⟨least, most⟩ =>
        invalid.elim (fun h => absurd least (not_le.2 h)) fun h => absurd most (not_le.2 h)), modPeerLane_eq _ _ _ _ _ here]
      rfl
    · have eq : t = setSamples i L (addSample part.samples rtt.toNat)
          (withPart i L r { part with outstanding := none, missed := 0 } s) := by
        show matchEcho L src body s = _
        simp only [matchEcho, index, here]
        rw [if_pos same, if_pos ⟨least, most⟩, modPeerLane_eq _ _ _ _ _ here]
        rfl
      have joined : addSample part.samples rtt.toNat = samples := by
        simp only [addSample, samples, List.drop_one]
        rfl
      rw [eq, joined]
      have becomes := setSamples_spec i L samples _ _
        (peers_withPart i L r { part with outstanding := none, missed := 0 } s here)
      simp only [PartBecomes, PerLane.get_set_same, withPart_twice] at becomes ⊢
      exact ⟨becomes, (withPart_touches i L r _ s).mono (by decide) |>.trans (setSamples_touches _ _ _ _)⟩

end Sys2Proof.Machine
end

section
/-! The configuration port (section 10.3): the clamped image, the bytes of a write, a CLOSE that fails and one that
succeeds. -/

namespace Sys2Proof.Machine

open Sys2Proof.Safety

/-! ### The fields of a clamped image (O41) -/

theorem clampOctet_toNat (low high : Nat) (b : Byte) (lowFits : low ≤ 255) (highFits : high ≤ 255) :
    (clampOctet low high b).toNat = max low (min high b.toNat) := by
  rw [clampOctet, be8, BitVec.toNat_ofNat]
  exact Nat.mod_eq_of_lt (by omega)

theorem clampCodes_enabled : ∀ b : Byte, (clampCodes b).getLsbD 7 = b.getLsbD 7 := by decide

theorem clampCodes_class : ∀ b : Byte,
    (clampCodes b).toNat / 4 % 4 = if b.toNat / 4 % 4 ≤ 2 then b.toNat / 4 % 4 else 0 := by decide

theorem clampCodes_mode : ∀ b : Byte,
    (clampCodes b).toNat % 4 = if b.toNat % 4 ≤ 2 then b.toNat % 4 else 0 := by decide

theorem oct_toList {n : Nat} (v : Vector Byte n) (i : Nat) (h : i < n) : oct v.toList i = v[i] := by
  simp [oct, h]

/-! #### Circuit and command records -/

section
variable (r : CircuitRecord)

theorem clampCircuit_enabled : recEnabled (clampCircuit r) = recEnabled r := clampCodes_enabled r[0]

theorem clampCircuit_class : recClass (clampCircuit r) = recClass r := by
  show (classOf ((clampCodes r[0]).toNat / 4 % 4)).getD .W = (classOf (r[0].toNat / 4 % 4)).getD .W
  rw [clampCodes_class]
  split
  · rfl
  · rw [show r[0].toNat / 4 % 4 = 3 by omega]
    rfl

theorem clampCircuit_mode : recMode (clampCircuit r) = recMode r := by
  have code := clampCodes_mode r[0]
  show (match (clampCodes r[0]).toNat % 4 with | 1 => LaneMode.pinA | 2 => .pinB | _ => .first) =
    match r[0].toNat % 4 with | 1 => LaneMode.pinA | 2 => .pinB | _ => .first
  by_cases named : r[0].toNat % 4 ≤ 2
  · rw [code, if_pos named]
  · rw [code, if_neg named, show r[0].toNat % 4 = 3 by omega]
    rfl

theorem clampCircuit_farPort : recFarPort (clampCircuit r) = min 7 (recFarPort r) :=
  (clampOctet_toNat 0 7 r[2] (by decide) (by decide)).trans (Nat.zero_max _)

theorem clampCircuit_budget : recBudget (clampCircuit r) = min 500 (recBudget r) := by
  show (oct (be16 _) 0 ++ oct (be16 _) 1 : BitVec 16).toNat = _
  rw [show (oct (be16 (BitVec.ofNat 16 (min 500 (recBudget r)))) 0 ++
    oct (be16 (BitVec.ofNat 16 (min 500 (recBudget r)))) 1 : BitVec 16) = _ from be16_read _, BitVec.toNat_ofNat]
  exact Nat.mod_eq_of_lt (by omega)

theorem clampCircuit_fillMode : ∀ b : Byte, (if b == 1 then (1 : Byte) else 0) = if b.toNat ≤ 1 then b else 0 := by decide

theorem clampCircuit_fillOctet : recFillOctet (clampCircuit r) = recFillOctet r := by
  show (if (if r[9] == 1 then (1 : Byte) else 0) == 1 then r[10] else 0xFF) = if r[9] == 1 then r[10] else 0xFF
  cases r[9] == 1 <;> rfl

end

theorem clampCommand_direction (r : CommandRecord) : cmdDirection (clampCommand r) = cmdDirection r := by
  show (match (if r[0].toNat ≤ 3 then r[0] else (0 : Byte)).toNat with
    | 1 => Direction.send | 2 => .receive | 3 => .both | _ => .disabled) =
    match r[0].toNat with | 1 => Direction.send | 2 => .receive | 3 => .both | _ => .disabled
  by_cases named : r[0].toNat ≤ 3
  · rw [if_pos named]
  · obtain ⟨n, beyond⟩ : ∃ n, r[0].toNat = n + 4 := Nat.exists_eq_add_of_le' (Nat.not_le.1 named)
    rw [if_neg named, beyond]
    rfl

/-! #### The station record and the steer table -/

theorem clampImage_instanceValue (im : Image) : (clampImage im).instanceValue = im.instanceValue := by
  have same : ∀ i < 4, oct (clampStation im).toList i = oct im.station.toList i := fun i below => by
    rw [oct_toList _ i (by omega), oct_toList _ i (by omega)]
    interval_cases i <;> rfl
  simp only [Image.instanceValue, rd32, rd16]
  exact congrArg₂ (· ++ ·) (congrArg₂ (· ++ ·) (same 0 (by decide)) (same 1 (by decide)))
    (congrArg₂ (· ++ ·) (same 2 (by decide)) (same 3 (by decide)))

theorem clampImage_echoPeriod (im : Image) : (clampImage im).echoPeriod = max 10 (min 1000 im.echoPeriod) := by
  show (rd16 (be16 _) 0).toNat = _
  rw [show rd16 (be16 _) 0 = _ from be16_read _, BitVec.toNat_ofNat]
  exact Nat.mod_eq_of_lt (by omega)

theorem raiseEntries_zero (least x : Nat) (xs : List Nat) : (raiseEntries least (x :: xs)).getD 0 0 = max least x := rfl

theorem raiseEntries_succ (xs : List Nat) (least j : Nat) (h : j + 1 < xs.length) :
    (raiseEntries least xs).getD (j + 1) 0 = max ((raiseEntries least xs).getD j 0) (xs.getD (j + 1) 0) := by
  induction xs generalizing least j with
  | nil => exact absurd h (by simp)
  | cons x xs ih =>
    cases j with
    | zero =>
      cases xs with
      | nil => exact absurd h (by simp)
      | cons y xs => rfl
    | succ j => exact ih (max least x) j (by simpa using h)

theorem raiseEntries_le (xs : List Nat) (least most : Nat) (low : least ≤ most) (h : ∀ x ∈ xs, x ≤ most) :
    ∀ x ∈ raiseEntries least xs, x ≤ most := by
  induction xs generalizing least with
  | nil => simp [raiseEntries]
  | cons y xs ih =>
    have here := h y List.mem_cons_self
    rw [raiseEntries]
    intro x member
    rcases List.mem_cons.1 member with rfl | later
    · omega
    · exact ih (max least y) (by omega) (fun z hz => h z (List.mem_cons_of_mem _ hz)) x later

theorem length_raiseEntries (xs : List Nat) (least : Nat) : (raiseEntries least xs).length = xs.length := by
  induction xs generalizing least with
  | nil => rfl
  | cons x xs ih => rw [raiseEntries, List.length_cons, ih, List.length_cons]

theorem orderedSteer_le (im : Image) : ∀ x ∈ orderedSteer im, x ≤ 4095 := by
  refine raiseEntries_le _ _ _ (by decide) fun x member => ?_
  obtain ⟨j, -, rfl⟩ := List.mem_map.1 member
  omega

theorem drop_halfwords (l : List Nat) (j : Nat) (h : j < l.length) :
    ∃ rest, ((l.map fun n => be16 (BitVec.ofNat 16 n)).flatten).drop (2 * j) = be16 (BitVec.ofNat 16 (l.getD j 0)) ++ rest := by
  induction l generalizing j with
  | nil => exact absurd h (by simp)
  | cons x l ih =>
    cases j with
    | zero => exact ⟨_, rfl⟩
    | succ j => exact ih j (by simpa using h)

theorem clampImage_steerEntry (im : Image) {j : Nat} (h : j < 16) : (clampImage im).steerEntry j = (orderedSteer im).getD j 0 := by
  have length : (orderedSteer im).length = 16 := by
    rw [orderedSteer, length_raiseEntries, List.length_map, List.length_range]
  have read : ∀ i < 32, oct (clampSteer im).toList i =
      oct ((orderedSteer im).map fun n => be16 (BitVec.ofNat 16 n)).flatten i := fun i below => by
    rw [oct_toList _ i below, clampSteer]
    exact Vector.getElem_ofFn below
  obtain ⟨rest, entry⟩ := drop_halfwords (orderedSteer im) j (by omega)
  show (rd16 (clampSteer im).toList (2 * j)).toNat = _
  rw [rd16, read _ (by omega), read _ (by omega), ← rd16, rd16_at entry, BitVec.toNat_ofNat]
  have bound : (orderedSteer im).getD j 0 ≤ 4095 := by
    rw [List.getD_eq_getElem _ _ (by omega)]
    exact orderedSteer_le im _ (List.getElem_mem _)
  exact Nat.mod_eq_of_lt (by omega)

theorem clampImage_circuit (im : Image) (p : Fin 8) : (clampImage im).circuits[p] = clampCircuit im.circuits[p] := by
  show (Vector.ofFn fun p : Fin 8 => clampCircuit im.circuits[p])[p.val] = _
  rw [Vector.getElem_ofFn]

theorem clampImage_command (im : Image) (k : Fin 4) : (clampImage im).commands[k] = clampCommand im.commands[k] := by
  show (Vector.ofFn fun k : Fin 4 => clampCommand im.commands[k])[k.val] = _
  rw [Vector.getElem_ofFn]

/-- Settles O41 (R115, R181). -/
theorem clampedImageInRange : Obligations.ClampedImageInRange := by
  intro im cl
  have entry {j : Nat} (h : j < 16) : cl.steerEntry j = (orderedSteer im).getD j 0 := clampImage_steerEntry im h
  have given : ∀ j < 16, ((List.range 16).map fun j => min 4095 (im.steerEntry j)).getD j 0 = min 4095 (im.steerEntry j) :=
    fun j h => by simp [h]
  have raised : ∀ j < 15, cl.steerEntry (j + 1) = max (cl.steerEntry j) (min 4095 (im.steerEntry (j + 1))) := fun j h => by
    rw [entry (by omega), entry (by omega), orderedSteer, raiseEntries_succ _ _ _ (by simp; omega), given _ (by omega)]
  refine ⟨fun j h => ?_, fun j h => ?_, ?_, raised, clampImage_echoPeriod im, clampImage_instanceValue im,
    fun p => ?_, fun k => ?_⟩
  · rw [entry h, List.getD_eq_getElem _ _ (by simp [orderedSteer, length_raiseEntries, h])]
    exact orderedSteer_le im _ (List.getElem_mem _)
  · rw [raised j h]
    exact Nat.le_max_left _ _
  · rw [entry (by decide)]
    exact Nat.zero_max _
  · intro r r'
    have clamped : r' = clampCircuit r := clampImage_circuit im p
    rw [clamped]
    exact ⟨clampCircuit_enabled r, clampCircuit_class r, clampCircuit_mode r, rfl, clampCircuit_farPort r,
      clampOctet_toNat 2 12 _ (by decide) (by decide), clampOctet_toNat 1 250 _ (by decide) (by decide),
      clampOctet_toNat 1 250 _ (by decide) (by decide), clampOctet_toNat 1 250 _ (by decide) (by decide),
      (clampOctet_toNat 0 60 _ (by decide) (by decide)).trans (Nat.zero_max _),
      clampOctet_toNat 1 16 _ (by decide) (by decide), clampCircuit_budget r, clampCircuit_fillOctet r,
      clampCodes_class r[0], clampCodes_mode r[0], clampCircuit_fillMode r[9], rfl⟩
  · intro r r'
    have clamped : r' = clampCommand r := clampImage_command im k
    rw [clamped]
    refine ⟨rfl, clampCommand_direction r, rfl, (clampOctet_toNat 0 15 _ (by decide) (by decide)).trans (Nat.zero_max _),
      (clampOctet_toNat 5 255 _ (by decide) (by decide)).trans ?_, clampOctet_toNat 1 100 _ (by decide) (by decide),
      (clampOctet_toNat 0 250 _ (by decide) (by decide)).trans (Nat.zero_max _)⟩
    rw [Nat.min_eq_right (Nat.le_of_lt_succ r[3].isLt)]
    rfl

/-! ### Transactions (O57) -/

theorem exec_dataByte {s : State} (high : s.rstLow = false) (b : BusByte) : exec (.dataByte b) s = .next (busByte b s) := by
  show execDataByte b s = _
  rw [execDataByte, running_high high]

theorem cfg_touches (s : State) (c : ConfigPort) : Touches [.cfg] s { s with cfg := c } := by
  intro x hx
  cases x <;> first | rfl | simp at hx

theorem stationState_code (x : StationState) : x.code =
    (match x with | .noAddress => 0 | .load => 1 | .quiet => 2 | .run => 3 | .clash => 4) := by cases x <;> rfl

/-- R182: what follows byte `i + 1` of the status. -/
theorem statusByte_next (i : Fin 4) (s : State) : statusByte (i + 1) s = match i with
    | 0 => BitVec.ofNat 8 s.cfg.fault
    | 1 => BitVec.ofNat 8 s.changes.entries.length
    | 2 => BitVec.ofNat 8 ((List.finRange 8).filter fun p => (s.port p).circuit.state = .play).length
    | 3 => match s.ctl.station with | .noAddress => 0 | .load => 1 | .quiet => 2 | .run => 3 | .clash => 4 :=
  match i with
  | 0 => rfl
  | 1 => rfl
  | 2 => rfl
  | 3 => stationState_code s.ctl.station

/-- Settles O57 (R178, R182). -/
theorem busTransactions : Obligations.BusTransactions := by
  intro s high
  refine ⟨⟨{ s with cfg := s.cfg.opened .address }, ?_, rfl, rfl, rfl, rfl, rfl, cfg_touches s _⟩,
    ⟨{ s with cfg := s.cfg.opened .idle }, ?_, rfl, rfl, rfl, rfl, rfl, cfg_touches s _⟩, fun b phase => ?_,
    fun i bits phase => ?_, fun b phase => ?_⟩
  · show execBusStart s = _
    rw [execBusStart, running_high high]
  · show execBusStop s = _
    rw [execBusStop, running_high high]
  · intro own
    refine ⟨addressPhase b s, ?_, ?_⟩
    · show execAddressByte b s = _
      rw [execAddressByte, running_high high]
      simp only [busByte, phase]
    · have address : s.cfg.address = own := rfl
      unfold addressPhase
      rw [address]
      by_cases here : b.toNat / 2 = own
      · rw [if_pos here]
        by_cases writes : b.toNat % 2 = 0
        · rw [if_pos writes]
          exact ⟨by simp [here], fun _ => ⟨rfl, rfl, rfl⟩, fun reads => by omega, fun other => absurd here other, rfl, rfl,
            cfg_touches s _⟩
        · rw [if_neg writes]
          refine ⟨by simp [here, sendStatus], fun w => by omega, fun _ => ⟨rfl, ?_⟩, fun other => absurd here other, rfl, rfl,
            cfg_touches s _⟩
          exact congrArg some (stationState_code s.ctl.station)
      · rw [if_neg here]
        exact ⟨by simp [here], fun w => by omega, fun r => by omega, fun _ => rfl, rfl, rfl, cfg_touches s _⟩
  · intro status
    have next : statusByte (i + 1) s = status := statusByte_next i s
    rw [exec_dataByte high, exec_dataByte high]
    simp only [busByte, phase, readByte, sendStatus, next]
    exact ⟨rfl, rfl⟩
  · rw [exec_dataByte high]
    simp only [busByte, phase]

/-! ### Bytes of a write (O58) -/

section
variable {s : State} (high : s.rstLow = false) (writing : s.cfg.phase = .writing)
include high writing

theorem exec_dataByte_writes (b : Byte) (acked : Bool) : exec (.dataByte ⟨b, acked⟩) s = .next (writeByte b s) := by
  rw [exec_dataByte high]
  simp only [busByte, writing]

theorem exec_loadByte_writes (b : Byte) : exec (.loadByte b) s = .next (writeByte b s) := by
  show execLoadByte b s = _
  rw [execLoadByte, running_high high]
  simp only [busByte, writing]

theorem exec_close_writes : exec .close s = .next (writeByte 0xE0 s) := by
  show execClose s = _
  rw [execClose, running_high high]
  simp only [busByte, writing]

end

theorem writeByte_refused {s : State} (h : s.cfg.refusing = true ∨ s.closed = true) (b : Byte) :
    writeByte b s = refuseByte s := if_pos (by simpa using h)

theorem writeByte_judged {s : State} (taking : s.cfg.refusing = false) (opened : s.closed = false)
    (absent : s.cfg.pointer = none) (b : Byte) : writeByte b s = judgeLoadByte b s := by
  rw [writeByte, taking, opened, absent]
  rfl

theorem writeByte_written {s : State} {l : LoadPointer} (taking : s.cfg.refusing = false) (opened : s.closed = false)
    (pointed : s.cfg.pointer = some l) (b : Byte) : writeByte b s = writeDataByte l b s := by
  rw [writeByte, taking, opened, pointed]
  rfl

/-- R179: a load byte and the record that it names. -/
def NamesRecord (b : Byte) (r : RecordRef) : Prop :=
  b.toNat / 8 % 4 = 0 ∧ match r with
    | .station => b.toNat / 32 = 0 ∧ b.toNat % 8 = 0
    | .circuit p => b.toNat / 32 = 1 ∧ b.toNat % 8 = p.val
    | .command k => b.toNat / 32 = 2 ∧ b.toNat % 8 = k.val
    | .steer => b.toNat / 32 = 3 ∧ b.toNat % 8 = 0

theorem recordOf_of_names {b : Byte} {r : RecordRef} (h : NamesRecord b r) : recordOf b = some r := by
  obtain ⟨middle, named⟩ := h
  rw [recordOf, if_pos middle]
  cases r with
  | station | steer =>
    obtain ⟨kind, index⟩ := named
    simp only [kind, index, if_true]
  | circuit p =>
    obtain ⟨kind, index⟩ := named
    simp only [kind, index]
    exact congrArg (fun q => some (RecordRef.circuit q)) (Fin.ext (Nat.mod_eq_of_lt p.isLt))
  | command k =>
    obtain ⟨kind, index⟩ := named
    simp only [kind, index, k.isLt, if_true]
    exact congrArg (fun q => some (RecordRef.command q)) (Fin.ext (Nat.mod_eq_of_lt k.isLt))

theorem names_of_recordOf {b : Byte} {r : RecordRef} (h : recordOf b = some r) : NamesRecord b r := by
  unfold recordOf at h
  split at h
  case isFalse => cases h
  next middle =>
  refine ⟨middle, ?_⟩
  split at h
  · next kind =>
    split at h
    · next index => cases h; exact ⟨kind, index⟩
    · cases h
  · next kind =>
    cases h
    exact ⟨kind, (Nat.mod_eq_of_lt (Nat.mod_lt _ (by decide))).symm⟩
  · next kind =>
    split at h
    · next index => cases h; exact ⟨kind, (Nat.mod_eq_of_lt index).symm⟩
    · cases h
  · next kind =>
    split at h
    · next index => cases h; exact ⟨kind, index⟩
    · cases h
  · cases h

/-- R179: an octet of another record is not written. -/
theorem recordOctets_write_other (im : Image) {l r : RecordRef} (differs : r ≠ l) (offset : Nat) (b : Byte) :
    recordOctets (im.write l offset b) r = recordOctets im r := by
  match l, r with
  | .circuit p, .circuit q =>
    have other : p.val ≠ q.val := fun same => differs (congrArg RecordRef.circuit (Fin.ext same.symm))
    exact congrArg Vector.toList (Vector.getElem_set_ne p.isLt q.isLt other)
  | .command p, .command q =>
    have other : p.val ≠ q.val := fun same => differs (congrArg RecordRef.command (Fin.ext same.symm))
    exact congrArg Vector.toList (Vector.getElem_set_ne p.isLt q.isLt other)
  | .station, .station | .steer, .steer => exact absurd rfl differs
  | .station, .circuit _ | .station, .command _ | .station, .steer => rfl
  | .circuit _, .station | .circuit _, .command _ | .circuit _, .steer => rfl
  | .command _, .station | .command _, .circuit _ | .command _, .steer => rfl
  | .steer, .station | .steer, .circuit _ | .steer, .command _ => rfl

theorem recordOctets_write_same (im : Image) (r : RecordRef) (offset : Nat) (b : Byte) :
    recordOctets (im.write r offset b) r = (recordOctets im r).set offset b := by
  cases r with
  | station | steer => exact Vector.toList_setIfInBounds
  | circuit p =>
    exact (congrArg Vector.toList (Vector.getElem_set_self p.isLt)).trans Vector.toList_setIfInBounds
  | command k =>
    exact (congrArg Vector.toList (Vector.getElem_set_self k.isLt)).trans Vector.toList_setIfInBounds

/-- Settles O58 (R178, R179). -/
theorem writeBytes : Obligations.WriteBytes := by
  intro b acked s high writing
  refine ⟨fun refused => ?_, fun taking opened absent notClose => ?_, fun l taking opened pointed => ?_⟩
  · exact ⟨_, exec_dataByte_writes high writing b acked,
      (exec_loadByte_writes high writing b).trans (by rw [writeByte_refused refused]),
      (exec_close_writes high writing).trans (by rw [writeByte_refused refused, writeByte_refused refused]),
      writeByte_refused refused b⟩
  · intro kind index names
    refine ⟨_, exec_loadByte_writes high writing b, fun r named => ?_, fun unnamed => ?_⟩
    all_goals rw [writeByte_judged taking opened absent, judgeLoadByte, if_neg notClose]
    · have record : recordOf b = some r := recordOf_of_names (by cases r <;> exact named)
      rw [record]
      rfl
    · have record : recordOf b = none := by
        cases found : recordOf b with
        | none => rfl
        | some r =>
          have named := names_of_recordOf found
          exact absurd (by cases r <;> exact named) (unnamed r)
      rw [record]
      rfl
  · intro length
    refine ⟨_, exec_dataByte_writes high writing b acked, ?_⟩
    rw [writeByte_written taking opened pointed]
    refine ⟨rfl, taking, ?_, fun r => ?_, ?_⟩
    · have octets : l.record.length = length := by
        simp only [length]
        cases l.record <;> rfl
      show l.next = _
      rw [LoadPointer.next, octets]
    · split
      · next same =>
        rw [same]
        exact recordOctets_write_same s.image l.record l.offset b
      · next differs => exact recordOctets_write_other s.image differs l.offset b
    · intro x hx
      cases x <;> first | rfl | simp at hx

/-! ### Faults (O59) -/

section
variable (im : Image)

theorem clampImage_recEnabled (p : Fin 8) : recEnabled (clampImage im).circuits[p] = recEnabled im.circuits[p] := by
  rw [clampImage_circuit, clampCircuit_enabled]

theorem clampImage_recFarStation (p : Fin 8) :
    recFarStation (clampImage im).circuits[p] = recFarStation im.circuits[p] := by
  rw [clampImage_circuit]
  rfl

theorem clampImage_recFarPort (p : Fin 8) : recFarPort (clampImage im).circuits[p] = min 7 (recFarPort im.circuits[p]) := by
  rw [clampImage_circuit, clampCircuit_farPort]

theorem clampImage_cmdDirection (k : Fin 4) : cmdDirection (clampImage im).commands[k] = cmdDirection im.commands[k] := by
  rw [clampImage_command, clampCommand_direction]

theorem clampImage_cmdFarStation (k : Fin 4) :
    cmdFarStation (clampImage im).commands[k] = cmdFarStation im.commands[k] := by
  rw [clampImage_command]
  rfl

theorem mem_imagePorts {p : Fin 8} : p ∈ im.enabledPorts ↔ recEnabled im.circuits[p] = true := by
  rw [Image.enabledPorts, List.mem_filter]
  exact and_iff_right ((by decide : ∀ q : Fin 8, q ∈ allPorts) p)

theorem mem_imageCommands {k : Fin 4} : k ∈ im.enabledCommands ↔ cmdDirection im.commands[k] ≠ .disabled := by
  rw [Image.enabledCommands, List.mem_filter]
  exact (and_iff_right ((by decide : ∀ j : Fin 4, j ∈ allCommands) k)).trans bne_iff_ne

theorem badFarStation_iff (number : Option Nat) (far : Nat) :
    badFarStation number far = true ↔ far = 0 ∨ 63 ≤ far ∨ number = some far := by
  simp [badFarStation, or_assoc]

/-- R180: fault 2. -/
theorem clampImage_namesBadStation (number : Option Nat) : (clampImage im).namesBadStation number = true ↔
    (∃ p : Fin 8, recEnabled im.circuits[p] = true ∧ badFarStation number (recFarStation im.circuits[p]) = true) ∨
      ∃ k : Fin 4, cmdDirection im.commands[k] ≠ .disabled ∧
        badFarStation number (cmdFarStation im.commands[k]) = true := by
  simp only [Image.namesBadStation, Bool.or_eq_true, List.any_eq_true, mem_imagePorts, mem_imageCommands,
    clampImage_recEnabled, clampImage_recFarStation, clampImage_cmdDirection, clampImage_cmdFarStation]

/-- R180: fault 3. -/
theorem clampImage_sharesFarPort : (clampImage im).sharesFarPort = true ↔
    ∃ p q : Fin 8, p ≠ q ∧ recEnabled im.circuits[p] = true ∧ recEnabled im.circuits[q] = true ∧
      recFarStation im.circuits[p] = recFarStation im.circuits[q] ∧
      min 7 (recFarPort im.circuits[p]) = min 7 (recFarPort im.circuits[q]) := by
  simp only [Image.sharesFarPort, List.any_eq_true, mem_imagePorts, Bool.and_eq_true, bne_iff_ne, beq_iff_eq,
    clampImage_recEnabled, clampImage_recFarStation, clampImage_recFarPort]
  constructor
  · rintro ⟨p, hp, q, hq, ⟨differ, station⟩, port⟩
    exact ⟨p, q, differ, hp, hq, station, port⟩
  · rintro ⟨p, q, differ, hp, hq, station, port⟩
    exact ⟨p, hp, q, hq, ⟨differ, station⟩, port⟩

end

/-- Settles O59 (R180). -/
theorem closeFails : Obligations.CloseFails := by
  intro s high writing taking opened absent im bad fault2 fault3 refusedWith
  have names : (clampImage im).namesBadStation s.ctl.number = true ↔ fault2 := by
    rw [clampImage_namesBadStation]
    simp only [badFarStation_iff, fault2, bad]
  have shares : (clampImage im).sharesFarPort = true ↔ fault3 := clampImage_sharesFarPort im
  have refused : ∀ n, n ≠ 0 → closeFault s.ctl im = n → refusedWith n := fun n fault found => by
    show exec .close s = _
    rw [exec_close_writes high writing, writeByte_judged taking opened absent, judgeLoadByte, if_pos rfl]
    dsimp only
    rw [if_neg (by rw [found]; exact fault), found]
    rfl
  refine ⟨fun noAddress => refused 1 (by decide) ?_, fun address two => refused 2 (by decide) ?_,
    fun address two three => refused 3 (by decide) ?_, fun address two three zero => refused 4 (by decide) ?_⟩
  · rw [closeFault, noAddress]
    rfl
  · rw [closeFault, if_neg (by simpa using address), if_pos (names.2 two)]
  · rw [closeFault, if_neg (by simpa using address), if_neg (mt names.1 two), if_pos (shares.2 three)]
  · rw [closeFault, if_neg (by simpa using address), if_neg (mt names.1 two), if_neg (mt shares.1 three),
      if_pos ((clampImage_instanceValue im).trans zero)]

end Sys2Proof.Machine
end

section
/-! A CLOSE that succeeds (R181): the peer table in the order of first appearance, and the pins that are high. -/

namespace Sys2Proof.Machine

open Sys2Proof.Safety

/-! ### The peer table (R36) -/

/-- A role that a station takes: the station, and the bits of its circuit and its command role. -/
abbrev Role := Nat × BitVec 8 × BitVec 4

def withRole (t : List Peer) (a : Role) : List Peer := addRole a.1 a.2.1 a.2.2 t

/-- R36: the roles that an image names, circuits before commands. -/
def Image.roles (im : Image) : List Role :=
  im.enabledPorts.map (fun p => (recFarStation im.circuits[p], (1 : BitVec 8) <<< p.val, (0 : BitVec 4))) ++
    im.enabledCommands.map (fun k => (cmdFarStation im.commands[k], (0 : BitVec 8), (1 : BitVec 4) <<< k.val))

theorem buildPeers_eq (im : Image) : buildPeers im = im.roles.foldl withRole [] := by
  rw [Image.roles, List.foldl_append, List.foldl_map, List.foldl_map]
  rfl

theorem addRole_new {st : Nat} {c : BitVec 8} {k : BitVec 4} {t : List Peer} (h : ∀ r ∈ t, r.station ≠ st) :
    addRole st c k t = t ++ [⟨st, c, k, PerLane.both PeerLane.reset⟩] := by
  induction t with
  | nil => rfl
  | cons r t ih =>
    rw [addRole, if_neg (h r List.mem_cons_self), ih fun x hx => h x (List.mem_cons_of_mem _ hx)]
    rfl

/-- A record that gains a role when its station is the one named. -/
def gainRole (a : Role) (r : Peer) : Peer :=
  if r.station = a.1 then { r with circuits := r.circuits ||| a.2.1, commands := r.commands ||| a.2.2 } else r

theorem gainRole_station (a : Role) (r : Peer) : (gainRole a r).station = r.station := by
  unfold gainRole
  split <;> rfl

theorem withRole_known {a : Role} {t : List Peer} (h : a.1 ∈ t.map (·.station)) (distinct : (t.map (·.station)).Nodup) :
    withRole t a = t.map (gainRole a) := by
  induction t with
  | nil => simp at h
  | cons r t ih =>
    rw [List.map_cons, List.nodup_cons] at distinct
    obtain ⟨fresh, distinct⟩ := distinct
    rw [withRole, addRole, List.map_cons, gainRole]
    by_cases here : r.station = a.1
    · rw [if_pos here, if_pos here]
      have others : t.map (gainRole a) = t := by
        conv => rhs; rw [← List.map_id t]
        refine List.map_congr_left fun x member => ?_
        exact if_neg fun same => fresh (List.mem_map.2 ⟨x, member, same.trans here.symm⟩)
      rw [others]
    · rw [if_neg here, if_neg here]
      refine congrArg (r :: ·) (ih ?_ distinct)
      rw [List.map_cons] at h
      exact (List.mem_cons.1 h).resolve_left (Ne.symm here)

theorem map_gainRole_station (a : Role) (t : List Peer) : (t.map (gainRole a)).map (·.station) = t.map (·.station) := by
  rw [List.map_map]
  exact List.map_congr_left fun r _ => gainRole_station a r

/-- What a peer table holds once roles have been taken: one record per station, its bits gathered from the roles. -/
structure Gathers (roles : List Role) (t : List Peer) : Prop where
  stations : t.map (·.station) = (roles.map (·.1)).eraseDups
  distinct : (t.map (·.station)).Nodup
  circuits : ∀ r ∈ t, ∀ i, r.circuits.getLsbD i = true ↔ ∃ a ∈ roles, a.1 = r.station ∧ a.2.1.getLsbD i = true
  commands : ∀ r ∈ t, ∀ i, r.commands.getLsbD i = true ↔ ∃ a ∈ roles, a.1 = r.station ∧ a.2.2.getLsbD i = true

theorem eraseDups_concat (l : List Nat) (x : Nat) :
    (l ++ [x]).eraseDups = if x ∈ l then l.eraseDups else l.eraseDups ++ [x] := by
  rw [List.eraseDups_append]
  by_cases h : x ∈ l
  · rw [if_pos h]
    simp [List.removeAll, h]
  · rw [if_neg h]
    simp [List.removeAll, h, List.eraseDups_cons]

theorem exists_concat (roles : List Role) (a : Role) (st : Nat) (holds : Role → Prop) :
    (∃ b ∈ roles ++ [a], b.1 = st ∧ holds b) ↔ (∃ b ∈ roles, b.1 = st ∧ holds b) ∨ (a.1 = st ∧ holds a) := by
  simp only [List.mem_append, List.mem_singleton, or_and_right, exists_or, exists_eq_left]

theorem gathers_withRole {roles : List Role} {t : List Peer} (h : Gathers roles t) (a : Role) :
    Gathers (roles ++ [a]) (withRole t a) := by
  obtain ⟨stations, distinct, circuits, commands⟩ := h
  have member : a.1 ∈ t.map (·.station) ↔ a.1 ∈ roles.map (·.1) := by rw [stations, List.mem_eraseDups]
  by_cases known : a.1 ∈ t.map (·.station)
  · rw [withRole_known known distinct]
    refine ⟨?_, ?_, fun r hr i => ?_, fun r hr i => ?_⟩
    · rw [map_gainRole_station, List.map_append, List.map_singleton, eraseDups_concat, if_pos (member.1 known), stations]
    · rw [map_gainRole_station]
      exact distinct
    all_goals
      obtain ⟨x, hx, rfl⟩ := List.mem_map.1 hr
      rw [exists_concat, gainRole_station]
    · rw [← circuits x hx, gainRole]
      by_cases here : x.station = a.1
      · simp [here, BitVec.getLsbD_or]
      · simp [here, Ne.symm here]
    · rw [← commands x hx, gainRole]
      by_cases here : x.station = a.1
      · simp [here, BitVec.getLsbD_or]
      · simp [here, Ne.symm here]
  · have fresh : ∀ r ∈ t, r.station ≠ a.1 := fun r hr same => known (List.mem_map.2 ⟨r, hr, same⟩)
    have unnamed : ∀ b ∈ roles, b.1 ≠ a.1 := fun b hb same => known (member.2 (List.mem_map.2 ⟨b, hb, same⟩))
    rw [withRole, addRole_new fresh]
    refine ⟨?_, ?_, fun r hr i => ?_, fun r hr i => ?_⟩
    · rw [List.map_append, List.map_append, List.map_singleton, List.map_singleton, eraseDups_concat,
        if_neg (mt member.2 known), stations]
    · rw [List.map_append, List.map_singleton, ← List.concat_eq_append]
      exact List.Nodup.concat known distinct
    all_goals
      rw [exists_concat]
      rcases List.mem_append.1 hr with old | new
    · rw [circuits r old, or_iff_left fun ⟨same, _⟩ => fresh r old same.symm]
    · rw [List.mem_singleton.1 new, or_iff_right fun ⟨b, hb, same, _⟩ => unnamed b hb same]
      exact (and_iff_right rfl).symm
    · rw [commands r old, or_iff_left fun ⟨same, _⟩ => fresh r old same.symm]
    · rw [List.mem_singleton.1 new, or_iff_right fun ⟨b, hb, same, _⟩ => unnamed b hb same]
      exact (and_iff_right rfl).symm

theorem gathers_foldl (roles : List Role) {done : List Role} {t : List Peer} (h : Gathers done t) :
    Gathers (done ++ roles) (roles.foldl withRole t) := by
  induction roles generalizing done t with
  | nil =>
    rw [List.append_nil]
    exact h
  | cons a roles ih =>
    rw [List.append_cons]
    exact ih (gathers_withRole h a)

theorem buildPeers_gathers (im : Image) : Gathers im.roles (buildPeers im) := by
  rw [buildPeers_eq]
  exact gathers_foldl im.roles (done := []) ⟨rfl, List.nodup_nil, fun r hr => by simp at hr, fun r hr => by simp at hr⟩

/-! #### The roles of the image -/

section
variable (im : Image)

theorem mem_roles {a : Role} : a ∈ im.roles ↔
    (∃ p : Fin 8, recEnabled im.circuits[p] = true ∧ (recFarStation im.circuits[p], (1 : BitVec 8) <<< p.val, 0) = a) ∨
      ∃ k : Fin 4, cmdDirection im.commands[k] ≠ .disabled ∧
        (cmdFarStation im.commands[k], 0, (1 : BitVec 4) <<< k.val) = a := by
  simp only [Image.roles, List.mem_append, List.mem_map, mem_imagePorts, mem_imageCommands]

theorem circuit_bit : ∀ p q : Fin 8, ((1 : BitVec 8) <<< p.val).getLsbD q.val = true ↔ p = q := by decide

theorem command_bit : ∀ k j : Fin 4, ((1 : BitVec 4) <<< k.val).getLsbD j.val = true ↔ k = j := by decide

theorem buildPeers_circuits {r : Peer} (h : r ∈ buildPeers im) (p : Fin 8) : r.circuits.getLsbD p.val = true ↔
    recEnabled im.circuits[p] = true ∧ recFarStation im.circuits[p] = r.station := by
  rw [(buildPeers_gathers im).circuits r h]
  constructor
  · rintro ⟨a, named, station, bit⟩
    rcases (mem_roles im).1 named with ⟨q, on, rfl⟩ | ⟨k, -, rfl⟩
    · rw [← (circuit_bit q p).1 bit]
      exact ⟨on, station⟩
    · simp at bit
  · rintro ⟨on, station⟩
    exact ⟨_, (mem_roles im).2 (.inl ⟨p, on, rfl⟩), station, (circuit_bit p p).2 rfl⟩

theorem buildPeers_commands {r : Peer} (h : r ∈ buildPeers im) (k : Fin 4) : r.commands.getLsbD k.val = true ↔
    cmdDirection im.commands[k] ≠ .disabled ∧ cmdFarStation im.commands[k] = r.station := by
  rw [(buildPeers_gathers im).commands r h]
  constructor
  · rintro ⟨a, named, station, bit⟩
    rcases (mem_roles im).1 named with ⟨q, -, rfl⟩ | ⟨j, on, rfl⟩
    · simp at bit
    · rw [← (command_bit j k).1 bit]
      exact ⟨on, station⟩
  · rintro ⟨on, station⟩
    exact ⟨_, (mem_roles im).2 (.inr ⟨k, on, rfl⟩), station, (command_bit k k).2 rfl⟩

theorem buildPeers_stations : (buildPeers im).map (·.station) =
    ((im.enabledPorts.map fun p => recFarStation im.circuits[p]) ++
      im.enabledCommands.map fun k => cmdFarStation im.commands[k]).eraseDups := by
  rw [(buildPeers_gathers im).stations, Image.roles, List.map_append, List.map_map, List.map_map]
  rfl

theorem buildPeers_names (st : Nat) : (∃ r ∈ buildPeers im, r.station = st) ↔
    (∃ p : Fin 8, recEnabled im.circuits[p] = true ∧ recFarStation im.circuits[p] = st) ∨
      ∃ k : Fin 4, cmdDirection im.commands[k] ≠ .disabled ∧ cmdFarStation im.commands[k] = st := by
  rw [← List.mem_map, buildPeers_stations, List.mem_eraseDups, List.mem_append, List.mem_map, List.mem_map]
  simp only [mem_imagePorts, mem_imageCommands]

theorem clampImage_roles : (clampImage im).roles = im.roles := by
  simp only [Image.roles, Image.enabledPorts, Image.enabledCommands, clampImage_recEnabled, clampImage_recFarStation,
    clampImage_cmdDirection, clampImage_cmdFarStation]

/-- R181: clamping changes no role. -/
theorem buildPeers_clampImage : buildPeers (clampImage im) = buildPeers im := by
  rw [buildPeers_eq, buildPeers_eq, clampImage_roles]

end

/-! ### Pins at the CLOSE (R137) -/

/-- R136: a command whose pin has been judged outside RUN. -/
def Command.judged (ms : Nat) (later : Time) (c : Command) : Command :=
  if c.outgoing.isNone then c
  else if c.ci == c.qualified then { c with qualTimer := none }
  else if ms = 0 then { c with qualified := c.ci, qualTimer := none }
  else { c with qualTimer := some later }

theorem judgePin_outside {s : State} (outside : s.ctl.station ≠ .run) (k : Fin 4) : judgePin k s =
    s.modCmd k (Command.judged (cmdQualification (s.cmdSetting k)) (s.after (cmdQualification (s.cmdSetting k) * 10000))) := by
  unfold judgePin
  dsimp only
  split
  · next none =>
    have same : s.modCmd k id = s :=
      congrArg (fun v => ({ s with cmds := v } : State)) (Vector.set_getElem_self k.isLt)
    refine same.symm.trans (modCmd_congr s k _ _ ?_)
    exact (if_pos none).symm
  next some =>
  split
  · next level => exact modCmd_congr s k _ _ ((if_neg some).trans (if_pos level)).symm
  next differs =>
  split
  · next zero =>
    rw [takeQualified, if_neg (by simpa using outside)]
    exact modCmd_congr s k _ _ ((if_neg some).trans ((if_neg differs).trans (if_pos zero))).symm
  · next long => exact modCmd_congr s k _ _ ((if_neg some).trans ((if_neg differs).trans (if_neg long))).symm

theorem judgePins_outside (pins : List (Fin 4)) (distinct : pins.Nodup) {s : State} (outside : s.ctl.station ≠ .run) :
    let t := pins.foldl (fun x k => judgePin k x) s
    (∀ k, t.cmd k = if k ∈ pins then
      (s.cmd k).judged (cmdQualification (s.cmdSetting k)) (s.after (cmdQualification (s.cmdSetting k) * 10000))
      else s.cmd k) ∧ Touches [.cmds] s t := by
  induction pins generalizing s with
  | nil => exact ⟨fun k => (if_neg List.not_mem_nil).symm, .refl _ _⟩
  | cons j pins ih =>
    obtain ⟨fresh, distinct⟩ := List.nodup_cons.1 distinct
    rw [List.foldl_cons, judgePin_outside outside]
    generalize judgement : Command.judged _ _ = f
    obtain ⟨judged, touched⟩ := ih distinct (s := s.modCmd j f) outside
    refine ⟨fun k => ?_, (modCmd_touches s j f).trans touched⟩
    rw [judged k]
    by_cases here : k = j
    · subst here
      rw [if_neg fresh, if_pos List.mem_cons_self, State.cmd_modCmd_same, ← judgement]
    · rw [State.cmd_modCmd_other _ _ _ _ here]
      simp only [List.mem_cons, here, false_or]
      rfl

theorem Command.judged_keeps (ms : Nat) (later : Time) (c : Command) :
    (c.judged ms later).co = c.co ∧ (c.judged ms later).outgoing = c.outgoing ∧ (c.judged ms later).incoming = c.incoming ∧
      (c.judged ms later).ci = c.ci ∧ (c.judged ms later).tk = c.tk := by
  unfold Command.judged
  split
  · exact ⟨rfl, rfl, rfl, rfl, rfl⟩
  split
  · exact ⟨rfl, rfl, rfl, rfl, rfl⟩
  split <;> exact ⟨rfl, rfl, rfl, rfl, rfl⟩

theorem sends_iff (d : Direction) : d.sends = true ↔ d = .send ∨ d = .both := by cases d <;> decide

theorem receives_iff (d : Direction) : d.receives = true ↔ d = .receive ∨ d = .both := by cases d <;> decide

/-- R136, R137: the qualifier of a command after a successful CLOSE. -/
theorem judged_closed (r : CommandRecord) (c : Command) (ms : Nat) (later : Time) :
    let x := (c.closed r).judged ms later
    let d := cmdDirection r
    (c.ci = false ∨ (d ≠ .send ∧ d ≠ .both) → x.qualified = false ∧ x.qualTimer = none) ∧
    (c.ci = true → d = .send ∨ d = .both →
      (ms = 0 → x.qualified = true ∧ x.qualTimer = none) ∧
      (ms ≠ 0 → x.qualified = false ∧ x.qualTimer = some later)) := by
  intro x d
  have pins : (c.closed r).ci = c.ci ∧ (c.closed r).qualified = false := ⟨rfl, rfl⟩
  have record : (c.closed r).outgoing.isNone = !d.sends := by
    show (if d.sends then some (Outgoing.fresh 0) else none).isNone = _
    cases d.sends <;> rfl
  refine ⟨fun h => ?_, fun high sends => ?_⟩
  · by_cases none : d.sends = false
    · have eq : x = c.closed r := if_pos (by rw [record, none]; rfl)
      rw [eq]
      exact ⟨rfl, rfl⟩
    · have low : c.ci = false := h.resolve_right fun ⟨send, both⟩ => none (by
        rw [Bool.eq_false_iff, Ne, sends_iff]
        exact fun h => h.elim send both)
      have eq : x = { c.closed r with qualTimer := Option.none } :=
        (if_neg (by rw [record]; simpa using none)).trans (if_pos (by rw [pins.1, pins.2, low]; rfl))
      rw [eq]
      exact ⟨rfl, rfl⟩
  · have given : ¬(c.closed r).outgoing.isNone = true := by rw [record, (sends_iff d).2 sends]; decide
    have differs : ¬((c.closed r).ci == (c.closed r).qualified) = true := by rw [pins.1, pins.2, high]; decide
    refine ⟨fun zero => ?_, fun long => ?_⟩
    · have eq : x = { c.closed r with qualified := c.ci, qualTimer := none } :=
        (if_neg given).trans ((if_neg differs).trans (if_pos zero))
      rw [eq, high]
      exact ⟨rfl, rfl⟩
    · have eq : x = { c.closed r with qualTimer := some later } :=
        (if_neg given).trans ((if_neg differs).trans (if_neg long))
      rw [eq]
      exact ⟨rfl, rfl⟩

theorem closeReady_touches (s : State) : Touches [.image, .peers, .ctl, .lanes, .dup, .stats, .marks, .markTimer,
    .echoTimer, .changes, .cfg, .ports, .cmds] s (closeReady s) := by
  intro x hx
  cases x <;> first | rfl | simp at hx

theorem closeReady_cmd (s : State) (k : Fin 4) :
    (closeReady s).cmd k = (s.cmd k).closed (clampImage s.image).commands[k] := by
  rw [closeReady, State.cmd_mapCmds]
  rfl

/-- R58, R82, R103: a port at a successful CLOSE. -/
theorem port_closed (r : CircuitRecord) (q : Port) : let x := q.closed r
    x.rx = q.rx ∧ x.counts = CircuitCounters.zero ∧ x.asm = ⟨false, none, 0⟩ ∧ x.tx.store = [] ∧
    x.engine.position = none ∧
    (recEnabled r = true → x.circuit = ⟨.wait, 0, (recMode r).configured, ⟨false, false, 0, false⟩, none, false, false,
      .none, none⟩ ∧ x.clk = ⟨0, 0, 0, 0, recN r⟩) ∧
    (recEnabled r = false → x.circuit.state = .off) := by
  intro x
  cases on : recEnabled r with
  | true =>
    rw [show x = q.startWait r from if_pos on]
    exact ⟨rfl, rfl, rfl, rfl, rfl, fun _ => ⟨rfl, rfl⟩, fun off => (by cases off)⟩
  | false =>
    have eq : x = _ := if_neg (by rw [on]; decide)
    rw [eq]
    exact ⟨rfl, rfl, rfl, rfl, rfl, fun on => (by cases on), fun _ => rfl⟩

/-- R137, R181: a successful CLOSE, and the pins it judges. -/
theorem closeImage_judged (s : State) : (∀ k, (closeImage s).cmd k =
    ((s.cmd k).closed (clampImage s.image).commands[k]).judged (cmdQualification (clampImage s.image).commands[k])
      (s.after (cmdQualification (clampImage s.image).commands[k] * 10000))) ∧ Touches [.cmds] (closeReady s) (closeImage s) := by
  obtain ⟨judged, touched⟩ := judgePins_outside allCommands (by decide) (s := closeReady s)
    (show StationState.quiet ≠ .run by decide)
  refine ⟨fun k => ?_, touched⟩
  rw [closeImage_eq, qualifyHighPins, judged k, if_pos ((by decide : ∀ j : Fin 4, j ∈ allCommands) k), closeReady_cmd]
  rfl

section
variable {s : State} (load : s.ctl.station = .load)
  (ports : ∀ p : Fin 8, recEnabled s.image.circuits[p] = true →
    badFarStation s.ctl.number (recFarStation s.image.circuits[p]) = false)
  (commands : ∀ k : Fin 4, cmdDirection s.image.commands[k] ≠ .disabled →
    badFarStation s.ctl.number (cmdFarStation s.image.commands[k]) = false)
  (pairs : ∀ p q : Fin 8, recEnabled s.image.circuits[p] = true → recEnabled s.image.circuits[q] = true → p ≠ q →
    recFarStation s.image.circuits[p] = recFarStation s.image.circuits[q] →
    min 7 (recFarPort s.image.circuits[p]) ≠ min 7 (recFarPort s.image.circuits[q]))
  (instanceGiven : s.image.instanceValue ≠ 0)
include load ports commands pairs instanceGiven

/-- R180: no fault is found. -/
theorem closeFault_none : closeFault s.ctl s.image = 0 := by
  have good : ¬(clampImage s.image).namesBadStation s.ctl.number = true := by
    rw [clampImage_namesBadStation]
    rintro (⟨p, on, faulty⟩ | ⟨k, on, faulty⟩)
    · exact absurd faulty (by rw [ports p on]; decide)
    · exact absurd faulty (by rw [commands k on]; decide)
  have alone : ¬(clampImage s.image).sharesFarPort = true := by
    rw [clampImage_sharesFarPort]
    rintro ⟨p, q, differ, hp, hq, station, port⟩
    exact pairs p q hp hq differ station port
  have address : ¬(s.ctl.station == .noAddress) = true := by rw [load]; decide
  rw [closeFault, if_neg address, if_neg good, if_neg alone,
    if_neg (by rw [clampImage_instanceValue]; exact instanceGiven)]

end

/-- R180, R181: a CLOSE without a fault is taken. -/
theorem exec_close_taken {s : State} (high : s.rstLow = false) (writing : s.cfg.phase = .writing)
    (taking : s.cfg.refusing = false) (load : s.ctl.station = .load) (absent : s.cfg.pointer = none)
    (sorted : closeFault s.ctl s.image = 0) : exec .close s = .next (takeByte (closeImage s)) := by
  have opened : s.closed = false := by rw [State.closed, load]; rfl
  rw [exec_close_writes high writing, writeByte_judged taking opened absent, judgeLoadByte, if_pos rfl]
  dsimp only
  rw [if_pos sorted]

/-- Settles O60 (R36, R135 to R137, R180, R181). -/
theorem closeSucceeds : Obligations.CloseSucceeds := by
  intro s high writing taking load absent im bad enabled used ports commands pairs instanceGiven
  have inEnabled : ∀ p, p ∈ enabled ↔ recEnabled im.circuits[p] = true := fun p => by simp [enabled]
  have inUsed : ∀ k, k ∈ used ↔ cmdDirection im.commands[k] ≠ .disabled := fun k => by simp [used]
  have ports8 : enabled = im.enabledPorts := rfl
  have commands4 : used = im.enabledCommands := List.filter_congr fun k _ => by
    cases cmdDirection im.commands[k] <;> rfl
  have good : ∀ far, ¬bad far → badFarStation s.ctl.number far = false := fun far h =>
    Bool.eq_false_iff.2 (mt (badFarStation_iff _ _).1 h)
  have closes := exec_close_taken high writing taking load absent (closeFault_none load
    (fun p on => good _ (ports p ((inEnabled p).2 on))) (fun k on => good _ (commands k ((inUsed k).2 on)))
    (fun p q hp hq => pairs p ((inEnabled p).2 hp) q ((inEnabled q).2 hq)) instanceGiven)
  obtain ⟨judged, touched⟩ := closeImage_judged s
  generalize closeImage s = m at closes judged touched
  have image : m.image = clampImage im := touched.same .image (by decide)
  have table : m.peers = buildPeers im := (touched.same .peers (by decide)).trans (buildPeers_clampImage im)
  have lanes : m.lanes = s.lanes.map fun (l : Forwarder) => { l with counts := LaneCounters.zero } :=
    touched.same .lanes (by decide)
  have marks : m.marks = PerLane.both MarkLane.reset := touched.same .marks (by decide)
  refine ⟨takeByte m, closes, rfl, ?_, image, touched.same .changes (by decide), touched.same .ctl (by decide),
    fun p => ?_, ?_, ?_, ?_, ?_, fun L => ⟨?_, ?_⟩, fun i => ?_, touched.same .stats (by decide),
    touched.same .markTimer (by decide), touched.same .echoTimer (by decide), ?_, fun k => ?_, ?_⟩
  · exact congrArg ConfigPort.fault (touched.same .cfg (by decide))
  · have port : (takeByte m).port p = (s.port p).closed (clampImage im).circuits[p] :=
      (State.port_of_ports (touched.same .ports (by decide)) p).trans (closeReady_port s p)
    have setting : (takeByte m).setting p = (clampImage im).circuits[p] := congrArg (·.circuits[p]) image
    intro r
    rw [port, show r = _ from setting]
    exact port_closed _ _
  · intro st
    rw [show (takeByte m).peers = _ from table]
    exact buildPeers_names im st
  · rw [show (takeByte m).peers = _ from table]
    exact (buildPeers_gathers im).distinct
  · rw [show (takeByte m).peers = _ from table, buildPeers_stations, ← ports8, ← commands4]
  · rw [show (takeByte m).peers = _ from table]
    exact fun r hr => ⟨(buildPeers_fresh im).2 r hr, buildPeers_commands im hr⟩
  · rw [State.forwarder, show (takeByte m).lanes = _ from lanes]
    exact PerLane.get_map _ s.lanes L
  · rw [State.mark, show (takeByte m).marks = _ from marks]
    exact PerLane.get_both _ L
  · rw [show (takeByte m).dup = _ from touched.same .dup (by decide)]
    exact Vector.getElem_replicate i.isLt
  · rw [show (takeByte m).peers = _ from table]
    exact fun r hr => buildPeers_circuits im hr
  · intro d
    have direction : cmdDirection (clampImage im).commands[k] = d := clampImage_cmdDirection im k
    have setting : (takeByte m).cmdSetting k = (clampImage im).commands[k] := congrArg (·.commands[k]) image
    have eq : (takeByte m).cmd k = _ := judged k
    rw [eq, setting]
    obtain ⟨co, outgoing, incoming, ci, tk⟩ := Command.judged_keeps
      (cmdQualification (clampImage im).commands[k]) (s.after (cmdQualification (clampImage im).commands[k] * 10000))
      ((s.cmd k).closed (clampImage im).commands[k])
    obtain ⟨low, qualifies⟩ := judged_closed (clampImage im).commands[k] (s.cmd k)
      (cmdQualification (clampImage im).commands[k]) (s.after (cmdQualification (clampImage im).commands[k] * 10000))
    rw [direction] at low qualifies
    refine ⟨co, outgoing.trans ?_, incoming.trans ?_, ci, tk, low, qualifies⟩
    · show (if (cmdDirection (clampImage im).commands[k]).sends then some (Outgoing.fresh 0) else none) = _
      simp only [direction, sends_iff]
      rfl
    · show (if (cmdDirection (clampImage im).commands[k]).receives then some Incoming.fresh else none) = _
      simp only [direction, receives_iff]
      rfl
  · exact (closeReady_touches s).trans ((touched.mono (by decide)).trans ((cfg_touches m _).mono (by decide)))

end Sys2Proof.Machine
end

section
/-! Entry to RUN (R175): what its tasks leave of each other, whatever their order. -/

namespace Sys2Proof.Machine

open Sys2Proof.Safety

/-! ### What originations leave -/

/-- R130, R131: a port of which only the delay figure and the OVER-BUDGET flag may have changed. -/
def PortAside (q q' : Port) : Prop :=
  (∃ d o, q' = { q with circuit := { q.circuit with delay := d, overBudget := o } }) ∧ (q.enabled = false → q' = q)

theorem PortAside.refl (q : Port) : PortAside q q := ⟨⟨_, _, rfl⟩, fun _ => rfl⟩

theorem PortAside.trans {q q' q'' : Port} (h : PortAside q q') (h' : PortAside q' q'') : PortAside q q'' := by
  obtain ⟨⟨d, o, rfl⟩, off⟩ := h
  obtain ⟨⟨d', o', rfl⟩, off'⟩ := h'
  exact ⟨⟨d', o', rfl⟩, fun disabled => (off' disabled).trans (off disabled)⟩

/-- The stations of the peer table and their presence. -/
def presence (s : State) : List (Nat × Bool × Bool) :=
  s.peers.map fun r => (r.station, r.lanes.a.present, r.lanes.b.present)

/-- Sequence values taken one after another. -/
def sequenceMoved (n : Nat) (c : Controller) : Controller := { c with sequence := c.sequence + BitVec.ofNat 16 n }

theorem sequenceMoved_zero (c : Controller) : sequenceMoved 0 c = c :=
  congrArg (fun q => ({ c with sequence := q } : Controller)) (BitVec.add_zero _)

theorem sequenceMoved_add (n m : Nat) (c : Controller) : sequenceMoved m (sequenceMoved n c) = sequenceMoved (n + m) c := by
  refine congrArg (fun q => ({ c with sequence := q } : Controller)) ?_
  rw [BitVec.ofNat_add, ← BitVec.add_assoc]
  rfl

/-- What originations of `n` frames leave of a state. -/
structure SendsOnly (n : Nat) (s t : State) : Prop where
  ctl : t.ctl = sequenceMoved n s.ctl
  touched : Touches sendParts s t
  time : t.clock.time = s.clock.time
  peers : presence t = presence s
  ports : ∀ p, PortAside (s.port p) (t.port p)

section
variable {s t u : State} {n m : Nat}

theorem SendsOnly.refl (s : State) : SendsOnly 0 s s :=
  ⟨(sequenceMoved_zero _).symm, .refl _ _, rfl, rfl, fun _ => .refl _⟩

theorem SendsOnly.trans (h : SendsOnly n s t) (h' : SendsOnly m t u) : SendsOnly (n + m) s u where
  ctl := by rw [h'.ctl, h.ctl, sequenceMoved_add]
  touched := h.touched.trans h'.touched
  time := h'.time.trans h.time
  peers := h'.peers.trans h.peers
  ports p := (h.ports p).trans (h'.ports p)

theorem SendsOnly.then (h : SendsOnly n s t) (h' : SendsOnly 0 t u) : SendsOnly n s u := h.trans h'

theorem SendsOnly.of_touches {parts : List Part} (h : Touches parts s t)
    (few : parts ⊆ [.lanes, .changes, .tieBreak] := by decide) : SendsOnly 0 s t := by
  have same := h.mono few
  refine ⟨(same.same .ctl (by decide)).trans (sequenceMoved_zero _).symm, same.mono (by decide),
    congrArg (·.time) (same.same .clock (by decide)), congrArg (List.map _) (same.same .peers (by decide)), fun p => ?_⟩
  rw [State.port_of_ports (same.same .ports (by decide)) p]
  exact .refl _

theorem SendsOnly.foldl {α : Type} (f : α → State → State) (h : ∀ a x, SendsOnly 0 x (f a x)) (l : List α) (s : State) :
    SendsOnly 0 s (l.foldl (fun x a => f a x) s) := by
  induction l generalizing s with
  | nil => exact .refl s
  | cons a l ih => exact (h a s).then (ih _)

end

theorem evaluateDelay_sendsOnly (p : Fin 8) (s : State) : SendsOnly 0 s (evaluateDelay p s) := by
  have touched := evaluateDelay_touches p s
  refine ⟨(touched.same .ctl (by decide)).trans (sequenceMoved_zero _).symm, touched.mono (by decide),
    congrArg (·.time) (touched.same .clock (by decide)), congrArg (List.map _) (touched.same .peers (by decide)),
    fun q => ?_⟩
  by_cases here : q = p
  · rw [here]
    exact ⟨evaluateDelay_port p s, fun off => by
      rw [evaluateDelay, if_neg (by rw [off]; decide)]⟩
  · rw [(evaluateDelay_onPort p s).others q here]
    exact .refl _

theorem presence_modify (l : List Peer) (i : Nat) (f : Peer → Peer)
    (h : ∀ r, ((f r).station, (f r).lanes.a.present, (f r).lanes.b.present) =
      (r.station, r.lanes.a.present, r.lanes.b.present)) :
    (l.modify i f).map (fun r => (r.station, r.lanes.a.present, r.lanes.b.present)) =
      l.map fun r => (r.station, r.lanes.a.present, r.lanes.b.present) := by
  refine List.ext_getElem? fun j => ?_
  simp only [List.getElem?_map, List.getElem?_modify]
  split
  · cases l[j]? with
    | none => rfl
    | some r => exact congrArg some (h r)
  · cases l[j]? <;> rfl

theorem modPeerLane_sendsOnly (s : State) (i : Nat) (L : Lane) (f : PeerLane → PeerLane)
    (h : ∀ l, (f l).present = l.present) : SendsOnly 0 s (s.modPeerLane i L f) where
  ctl := (sequenceMoved_zero _).symm
  touched := (modPeerLane_touches s i L f).mono (by decide)
  time := rfl
  peers := presence_modify s.peers i _ fun r => by cases L <;> simp [PerLane.set, PerLane.get, h]
  ports p := .refl _

theorem inSomeOrder_sendsOnly {α : Type} (f : α → State → State) (h : ∀ a x, SendsOnly 0 x (f a x)) (l : List α)
    (s : State) : SendsOnly 0 s (s.inSomeOrder l f) := by
  have chosen : SendsOnly 0 s { s with tieBreak := (arrange l.length s.tieBreak l).2 } :=
    .of_touches (parts := [.tieBreak]) fun x hx => by cases x <;> first | rfl | simp at hx
  exact chosen.then (.foldl f h _ _)

theorem setSamples_sendsOnly (i : Nat) (L : Lane) (samples : List Nat) (s : State) :
    SendsOnly 0 s (setSamples i L samples s) := by
  unfold setSamples
  split
  · exact .refl s
  dsimp only
  split
  · exact modPeerLane_sendsOnly s i L _ fun _ => rfl
  · refine SendsOnly.then ?_ (inSomeOrder_sendsOnly evaluateDelay evaluateDelay_sendsOnly _ _)
    exact modPeerLane_sendsOnly s i L _ fun _ => rfl

theorem unmeasure_sendsOnly (i : Nat) (L : Lane) (s : State) : SendsOnly 0 s (unmeasure i L s) := by
  unfold unmeasure
  split
  · exact .refl s
  · split
    · exact setSamples_sendsOnly _ _ _ _
    · exact .refl s

theorem fileEcho_sendsOnly (X : Lane) (station : Nat) (t1 : Time) (s : State) : SendsOnly 0 s (fileEcho X station t1 s) := by
  unfold fileEcho
  split
  · exact .refl s
  split
  · exact .refl s
  split
  · exact modPeerLane_sendsOnly s _ _ _ fun _ => rfl
  · refine SendsOnly.then ?_ (unmeasure_sendsOnly _ _ _)
    exact modPeerLane_sendsOnly s _ _ _ fun _ => rfl

theorem startSending_sendsOnly (L : Lane) (f : Octets) (s : State) : SendsOnly 0 s (startSending L f s) where
  ctl := (sequenceMoved_zero _).symm
  touched := (startSending_touches L f s).mono (by decide)
  time := rfl
  peers := rfl
  ports p := .refl _

theorem modForwarder_sendsOnly (s : State) (L : Lane) (f : Forwarder → Forwarder) : SendsOnly 0 s (s.modForwarder L f) :=
  .of_touches (modForwarder_touches s L f)

theorem grant_sendsOnly (L : Lane) (s : State) : SendsOnly 0 s (grant L s) := by
  unfold grant
  split
  · exact .refl s
  split
  · exact .refl s
  rename_i own f rest _
  dsimp only
  refine (modForwarder_sendsOnly s L fun _ => rest).then ?_
  split
  · refine (startSending_sendsOnly L (withCheck (stamped f s.now)) _).then ?_
    split
    · exact fileEcho_sendsOnly _ _ _ _
    · exact .refl _
  · exact startSending_sendsOnly L _ _

theorem offer_sendsOnly (f : Octets) (L : Lane) (s : State) : SendsOnly 0 s (offer f L s) := by
  unfold offer
  dsimp only
  split
  · exact (modForwarder_sendsOnly s L _).then (grant_sendsOnly L _)
  split
  · exact (modForwarder_sendsOnly s L _).then (grant_sendsOnly L _)
  · exact .of_touches (countLane_touches _ _ _)

theorem originate_sendsOnly {s : State} (run : s.ctl.station = .run) (k : FrameKind) (dst : Nat) (body : Octets)
    (lanes : List Lane) : SendsOnly 1 s (originate k dst body lanes s) := by
  rw [originate_run run]
  have taken : SendsOnly 1 s (sequenceTaken s) :=
    ⟨rfl, (ctl_touches s _).mono (by decide), rfl, rfl, fun _ => .refl _⟩
  exact taken.then (.foldl (fun L x => offer _ L x) (fun L x => offer_sendsOnly _ L x) lanes _)

/-- R120: the first echo round takes two sequence values for each peer. -/
theorem echoPeers_sendsOnly (peers : List Peer) {s : State} (run : s.ctl.station = .run) :
    SendsOnly (2 * peers.length) s (peers.foldl (fun x r => echoPeer r x) s) := by
  induction peers generalizing s with
  | nil => exact .refl s
  | cons r peers ih =>
    have first := originate_sendsOnly run .echo r.station (zeros 4) [.A]
    have both := first.trans (originate_sendsOnly (by rw [first.ctl]; exact run) .echo r.station (zeros 4) [.B])
    have all := both.trans (ih (by rw [both.ctl]; exact run))
    rwa [show 1 + 1 + 2 * peers.length = 2 * (r :: peers).length by rw [List.length_cons]; omega] at all

theorem presence_length {s t : State} (h : presence t = presence s) : t.peers.length = s.peers.length := by
  simpa [presence] using congrArg List.length h

/-- A far peer's presence depends on the presence of the peers alone. -/
theorem farPresent_of_presence {s t : State} (peers : presence t = presence s) (image : t.image = s.image) (p : Fin 8)
    (L : Lane) : t.farPresent p L = s.farPresent p L := by
  have eq : ∀ x : State, x.farPresent p L = match (presence x).find? (fun a => a.1 == recFarStation (x.setting p)) with
      | none => false
      | some a => match L with | .A => a.2.1 | .B => a.2.2 := fun x => by
    rw [presence, List.find?_map, State.farPresent, State.farPeer]
    have station : ((fun a : Nat × Bool × Bool => a.1 == recFarStation (x.setting p)) ∘
      fun r : Peer => (r.station, r.lanes.a.present, r.lanes.b.present)) =
        fun r => r.station == recFarStation (x.setting p) := rfl
    rw [station]
    cases x.peers.find? (fun r => r.station == recFarStation (x.setting p)) with
    | none => rfl
    | some r => cases L <;> rfl
  rw [eq, eq, peers, show t.setting p = s.setting p from congrArg (·.circuits[p]) image]

/-! ### Lane selection and assertions at the entry -/

/-- R92: the presence criterion switches the configured lane. -/
def SwitchesAtRun (s : State) (p : Fin 8) (c : Lane) : Prop :=
  (recMode (s.setting p)).configured = some c ∧ s.farPresent p c = false ∧ s.farPresent p c.other = true

/-- R92, R100: a port whose current lane has been selected at the entry to RUN. -/
structure LaneSelected (s : State) (p : Fin 8) (q q' : Port) : Prop where
  asm : q'.asm = q.asm
  state : q'.circuit.state = q.circuit.state
  tally : q'.circuit.tally = ⟨false, false, 0, false⟩
  rx : q'.rx = q.rx
  engine : q'.engine = q.engine
  clk : q'.clk = q.clk
  tx : q'.tx = q.tx
  switched : ∀ c, SwitchesAtRun s p c → q'.circuit.current = some c.other ∧
    q'.counts = { q.counts with laneSwitches := bump q.counts.laneSwitches }
  stays : (∀ c, ¬SwitchesAtRun s p c) → q'.circuit.current = (recMode (s.setting p)).configured ∧
    q'.circuit.revert = none ∧ q'.counts = q.counts

theorem LaneSelected.after {s : State} {p : Fin 8} {q q' q'' : Port} (h : LaneSelected s p q q') (aside : PortAside q' q'') :
    LaneSelected s p q q'' := by
  obtain ⟨⟨d, o, rfl⟩, -⟩ := aside
  exact ⟨h.asm, h.state, h.tally, h.rx, h.engine, h.clk, h.tx, h.switched, h.stays⟩

theorem LaneSelected.before {s t : State} {p : Fin 8} {q q' q'' : Port} (aside : PortAside q q') (h : LaneSelected t p q' q'')
    (peers : presence t = presence s) (image : t.image = s.image) : LaneSelected s p q q'' := by
  obtain ⟨⟨d, o, rfl⟩, -⟩ := aside
  have setting : t.setting p = s.setting p := congrArg (·.circuits[p]) image
  have switches : ∀ c, SwitchesAtRun t p c ↔ SwitchesAtRun s p c := fun c => by
    rw [SwitchesAtRun, SwitchesAtRun, setting, farPresent_of_presence peers image, farPresent_of_presence peers image]
  refine ⟨h.asm, h.state, h.tally, h.rx, h.engine, h.clk, h.tx, fun c hc => h.switched c ((switches c).2 hc), fun none => ?_⟩
  rw [← setting]
  exact h.stays fun c hc => none c ((switches c).1 hc)

/-- R92, R100: the task of an enabled circuit at the entry to RUN. -/
theorem selectLaneAtRun_selected {s : State} {p : Fin 8} (on : (s.port p).enabled = true) :
    LaneSelected s p (s.port p) ((selectLaneAtRun p s).port p) := by
  rw [selectLaneAtRun, if_pos on]
  generalize hm : (s.modPort p fun q => { q with circuit := { q.circuit with
    current := (recMode (s.setting p)).configured, tally := Tally.zero, revert := none } }) = m
  have port : m.port p = { s.port p with circuit := { (s.port p).circuit with
      current := (recMode (s.setting p)).configured, tally := Tally.zero, revert := none } } := by
    rw [← hm, State.port_modPort_same]
  have present : ∀ L, m.farPresent p L = s.farPresent p L := fun L => by rw [← hm]; rfl
  have current : (m.port p).circuit.current = (recMode (s.setting p)).configured := by rw [port]
  by_cases switches : ∃ c, SwitchesAtRun s p c
  · obtain ⟨c, configured, absent, there⟩ := switches
    rw [checkPresence_switches (current.trans configured) ((present c).trans absent) ((present c.other).trans there),
      (switchLane_spec p c.other m).1, port]
    refine ⟨rfl, rfl, rfl, rfl, rfl, rfl, rfl, fun c' hc => ⟨?_, rfl⟩,
      fun none => absurd ⟨configured, absent, there⟩ (none c)⟩
    have same : c' = c := Option.some.inj (hc.1.symm.trans configured)
    rw [same]
  · have stays : checkPresence p m = m := checkPresence_stays fun c hc => by
      rw [current] at hc
      rw [present, present]
      exact Classical.byContradiction fun h => switches ⟨c, hc, Bool.eq_false_iff.2 fun e => h (.inl e),
        Bool.of_not_eq_false fun e => h (.inr e)⟩
    rw [stays, port]
    exact ⟨rfl, rfl, rfl, rfl, rfl, rfl, rfl, fun c hc => absurd ⟨c, hc⟩ switches, fun _ => ⟨rfl, rfl, rfl⟩⟩

/-- R137: the outgoing record after the assertion at the entry to RUN. -/
def assertedRecord (s : State) (k : Fin 4) (o : Outgoing) : Outgoing :=
  ⟨.on, o.activation + 1, .awaiting, none, 0, some (s.after 20000),
    some (s.after (cmdAnswerTimeout (s.cmdSetting k) * 10000))⟩

/-- R137: the task of a command that is qualified ASSERTED. -/
theorem takeAssertion_sendsOnly {s : State} {k : Fin 4} {o : Outgoing} (run : s.ctl.station = .run)
    (here : (s.cmd k).outgoing = some o) :
    SendsOnly 1 (s.modCmd k fun c => { c with outgoing := some (assertedRecord s k o) }) (takeAssertion k s) := by
  rw [takeAssertion_eq here]
  exact (originate_sendsOnly (s := s.modCmd k _) run _ _ _ _).then (.of_touches (pushChange_touches _ _))

/-! ### The tasks one after another -/

/-- The sequence values that a task takes. -/
def taskFrames (s : State) : RunTask → Nat
  | .mark => 1
  | .echoes => 2 * s.peers.length
  | .lane _ => 0
  | .assertion _ => 1

/-- What the entry to RUN has made of a state when the tasks in `done` have been taken. -/
structure Ran (s : State) (done : List RunTask) (n : Nat) (t : State) : Prop where
  ctl : t.ctl = sequenceMoved n s.ctl
  touched : Touches [.ctl, .lanes, .clock, .peers, .ports, .cmds, .changes, .tieBreak] s t
  time : t.clock.time = s.clock.time
  peers : presence t = presence s
  selected : ∀ p, .lane p ∈ done → LaneSelected s p (s.port p) (t.port p)
  waiting : ∀ p, .lane p ∉ done → PortAside (s.port p) (t.port p)
  asserted : ∀ k, .assertion k ∈ done →
    t.cmd k = { s.cmd k with outgoing := (s.cmd k).outgoing.map (assertedRecord s k) }
  unasserted : ∀ k, .assertion k ∉ done → t.cmd k = s.cmd k

section
variable {s t u : State} {done : List RunTask} {n m : Nat}

theorem Ran.start (s : State) : Ran s [] 0 s where
  ctl := (sequenceMoved_zero _).symm
  touched := .refl _ _
  time := rfl
  peers := rfl
  selected _ h := absurd h List.not_mem_nil
  waiting _ _ := .refl _
  asserted _ h := absurd h List.not_mem_nil
  unasserted _ _ := rfl

/-- Originations leave what the tasks before them have done. -/
theorem Ran.sends (h : Ran s done n t) (sends : SendsOnly m t u) : Ran s done (n + m) u := by
  have cmds : ∀ k, u.cmd k = t.cmd k := fun k =>
    congrArg (fun v : Vector Command 4 => v[k]) (sends.touched.same .cmds (by decide))
  exact {
    ctl := by rw [sends.ctl, h.ctl, sequenceMoved_add]
    touched := h.touched.trans (sends.touched.mono (by decide))
    time := sends.time.trans h.time
    peers := sends.peers.trans h.peers
    selected := fun p hp => (h.selected p hp).after (sends.ports p)
    waiting := fun p hp => (h.waiting p hp).trans (sends.ports p)
    asserted := fun k hk => (cmds k).trans (h.asserted k hk)
    unasserted := fun k hk => (cmds k).trans (h.unasserted k hk) }

/-- A task that is neither a circuit's nor a command's is noted. -/
theorem Ran.noted (h : Ran s done n t) {task : RunTask} (lane : ∀ p, task ≠ .lane p)
    (assertion : ∀ k, task ≠ .assertion k) :
    Ran s (done ++ [task]) n t := by
  have lanes : ∀ p, RunTask.lane p ∈ done ++ [task] ↔ RunTask.lane p ∈ done := fun p => by
    simp [(lane p).symm]
  have assertions : ∀ k, RunTask.assertion k ∈ done ++ [task] ↔ RunTask.assertion k ∈ done := fun k => by
    simp [(assertion k).symm]
  exact { h with
    selected := fun p hp => h.selected p ((lanes p).1 hp)
    waiting := fun p hp => h.waiting p (mt (lanes p).2 hp)
    asserted := fun k hk => h.asserted k ((assertions k).1 hk)
    unasserted := fun k hk => h.unasserted k (mt (assertions k).2 hk) }

theorem Ran.lane (h : Ran s done n t) {p : Fin 8} (fresh : .lane p ∉ done) (on : (s.port p).enabled = true) :
    Ran s (done ++ [.lane p]) n (selectLaneAtRun p t) := by
  have touched := selectLaneAtRun_touches p t
  have others := (selectLaneAtRun_onPort p t).others
  have aside := h.waiting p fresh
  have enabled : (t.port p).enabled = true := by
    obtain ⟨⟨d, o, eq⟩, -⟩ := aside
    rw [eq]
    exact on
  have cmds : ∀ k, (selectLaneAtRun p t).cmd k = t.cmd k := fun k =>
    congrArg (fun v : Vector Command 4 => v[k]) (touched.same .cmds (by decide))
  have assertions : ∀ k, RunTask.assertion k ∈ done ++ [.lane p] ↔ RunTask.assertion k ∈ done := fun k => by simp
  have lanes : ∀ q, q ≠ p → (RunTask.lane q ∈ done ++ [.lane p] ↔ RunTask.lane q ∈ done) := fun q hq => by simp [hq]
  exact {
    ctl := (touched.same .ctl (by decide)).trans h.ctl
    touched := h.touched.trans (touched.mono (by decide))
    time := (congrArg (·.time) (touched.same .clock (by decide))).trans h.time
    peers := (congrArg (List.map _) (touched.same .peers (by decide))).trans h.peers
    selected := fun q hq => by
      by_cases here : q = p
      · rw [here]
        exact .before aside (selectLaneAtRun_selected enabled) h.peers (h.touched.same .image (by decide))
      · rw [others q here]
        exact h.selected q ((lanes q here).1 hq)
    waiting := fun q hq => by
      have here : q ≠ p := fun same => hq (by simp [same])
      rw [others q here]
      exact h.waiting q (mt (lanes q here).2 hq)
    asserted := fun k hk => (cmds k).trans (h.asserted k ((assertions k).1 hk))
    unasserted := fun k hk => (cmds k).trans (h.unasserted k (mt (assertions k).2 hk)) }

theorem Ran.assertion (h : Ran s done n t) (run : s.ctl.station = .run) {k : Fin 4} (fresh : .assertion k ∉ done) {o : Outgoing}
    (here : (s.cmd k).outgoing = some o) : Ran s (done ++ [.assertion k]) (n + 1) (takeAssertion k t) := by
  have record : (t.cmd k).outgoing = some o := by rw [h.unasserted k fresh, here]
  have sends := takeAssertion_sendsOnly (s := t) (by rw [h.ctl]; exact run) record
  refine Ran.sends ?_ sends
  have lanes : ∀ q, RunTask.lane q ∈ done ++ [.assertion k] ↔ RunTask.lane q ∈ done := fun q => by simp
  have later : assertedRecord t k o = assertedRecord s k o := by
    rw [assertedRecord, State.after, State.after, h.time, State.cmdSetting, h.touched.same .image (by decide)]
    rfl
  exact {
    ctl := h.ctl
    touched := h.touched.trans ((modCmd_touches t k _).mono (by decide))
    time := h.time
    peers := h.peers
    selected := fun p hp => h.selected p ((lanes p).1 hp)
    waiting := fun p hp => h.waiting p (mt (lanes p).2 hp)
    asserted := fun j hj => by
      by_cases same : j = k
      · subst same
        rw [State.cmd_modCmd_same, h.unasserted j fresh, here, later]
        rfl
      · rw [State.cmd_modCmd_other _ _ _ _ same]
        exact h.asserted j (by simpa [same] using hj)
    unasserted := fun j hj => by
      have same : j ≠ k := fun same => hj (by simp [same])
      rw [State.cmd_modCmd_other _ _ _ _ same]
      exact h.unasserted j fun old => hj (by simp [old]) }

/-- A task that the entry to RUN finds. -/
def TaskFound (s : State) : RunTask → Prop
  | .mark | .echoes => True
  | .lane p => (s.port p).enabled = true
  | .assertion k => (s.cmd k).outgoing.isSome = true

theorem Ran.task (h : Ran s done n t) (run : s.ctl.station = .run) {task : RunTask} (fresh : task ∉ done)
    (found : TaskFound s task) : Ran s (done ++ [task]) (n + taskFrames s task) (runTask task t) := by
  have runs : t.ctl.station = .run := by rw [h.ctl]; exact run
  cases task with
  | mark => exact (h.sends (originate_sendsOnly runs _ _ _ _)).noted (fun _ h => by cases h) fun _ h => by cases h
  | echoes =>
    have sends := echoPeers_sendsOnly t.peers runs
    rw [presence_length h.peers] at sends
    exact (h.sends sends).noted (fun _ h => by cases h) fun _ h => by cases h
  | lane p => exact h.lane fresh found
  | assertion k =>
    obtain ⟨o, here⟩ := Option.isSome_iff_exists.1 found
    exact h.assertion run fresh here

theorem Ran.tasks (run : s.ctl.station = .run) : ∀ (order : List RunTask) {done : List RunTask} {n : Nat} {t : State},
    Ran s done n t → (done ++ order).Nodup → (∀ task ∈ order, TaskFound s task) →
    Ran s (done ++ order) (n + (order.map (taskFrames s)).sum) (order.foldl (fun x task => runTask task x) t)
  | [], done, n, t, h, _, _ => by
    rw [List.append_nil]
    exact h
  | task :: order, done, n, t, h, distinct, found => by
    have fresh : task ∉ done := fun old =>
      (List.nodup_append.1 distinct).2.2 task old task List.mem_cons_self rfl
    rw [List.append_cons, List.map_cons, List.sum_cons, ← Nat.add_assoc]
    exact Ran.tasks run order (h.task run fresh (found task List.mem_cons_self)) (by rwa [← List.append_cons])
      fun x hx => found x (List.mem_cons_of_mem _ hx)

end

/-! ### The entry (O56) -/

/-- R175: the state at the entry to RUN, in the order that the choices give the tasks. -/
def runBegun (s : State) (choices : List Nat) : State := { runReady s with tieBreak := choices }

theorem runBegun_touches (s : State) (choices : List Nat) :
    Touches [.ctl, .marks, .markTimer, .echoTimer, .ports, .tieBreak] s (runBegun s choices) := by
  intro x hx
  cases x <;> first | rfl | simp at hx

theorem startAssembler_enabled (u : Time) (q : Port) : (startAssembler u q).enabled = q.enabled := by
  unfold startAssembler
  split <;> rfl

/-- R46: a started assembler, by the line's state. -/
theorem startAssembler_on {q : Port} (on : q.enabled = true) (u : Time) : startAssembler u q =
    { q with asm := ⟨true, some (match q.rx.line with | .present => .line [] | .lost => .station u), q.asm.nextCount⟩ } :=
  if_pos on

theorem startAssembler_off {q : Port} (off : q.enabled = false) (u : Time) : startAssembler u q = q :=
  if_neg (by rw [off]; decide)

/-- R92, R100, R137: what the entry to RUN finds for its blocks to do. -/
def tasksAtRun (s : State) : List RunTask :=
  [.mark, .echoes] ++ ((List.finRange 8).filter fun p => (s.port p).enabled).map .lane ++
    ((List.finRange 4).filter fun k => (s.cmd k).qualified && (s.cmd k).outgoing.isSome).map .assertion

theorem runTasks_runReady (s : State) : (runReady s).runTasks = tasksAtRun s := by
  have ports : (runReady s).enabledPorts = (List.finRange 8).filter fun p => (s.port p).enabled := by
    refine List.filter_congr fun p _ => ?_
    rw [runReady_port, startAssembler_enabled]
  rw [State.runTasks, ports]
  rfl

theorem tasksAtRun_nodup (s : State) : (tasksAtRun s).Nodup := by
  have lanes := (((List.nodup_finRange 8).filter fun p => (s.port p).enabled).map (f := RunTask.lane)
    fun _ _ h => RunTask.lane.inj h)
  have assertions := (((List.nodup_finRange 4).filter fun k => (s.cmd k).qualified && (s.cmd k).outgoing.isSome).map
    (f := RunTask.assertion) fun _ _ h => RunTask.assertion.inj h)
  refine List.nodup_append.2 ⟨List.nodup_append.2 ⟨by decide, lanes, ?_⟩, assertions, ?_⟩
  · rintro a ha b hb rfl
    obtain ⟨p, -, rfl⟩ := List.mem_map.1 hb
    simp at ha
  · rintro a ha b hb rfl
    obtain ⟨k, -, rfl⟩ := List.mem_map.1 hb
    simp at ha

theorem lane_mem_tasksAtRun (s : State) (p : Fin 8) : .lane p ∈ tasksAtRun s ↔ (s.port p).enabled = true := by
  simp [tasksAtRun]

theorem assertion_mem_tasksAtRun (s : State) (k : Fin 4) : .assertion k ∈ tasksAtRun s ↔
    (s.cmd k).qualified = true ∧ (s.cmd k).outgoing.isSome = true := by
  simp [tasksAtRun]

theorem taskFrames_sum (s : State) : ((tasksAtRun s).map (taskFrames s)).sum = 1 + 2 * s.peers.length +
    ((List.finRange 4).filter fun k => (s.cmd k).qualified && (s.cmd k).outgoing.isSome).length := by
  simp [tasksAtRun, taskFrames, Function.comp_def, Nat.add_assoc]

/-- R173, R175: the tasks of the entry to RUN, taken in an order that is free. -/
theorem enterRun_ran (s : State) : ∃ order choices, order.Perm (tasksAtRun s) ∧
    enterRun s = order.foldl (fun x task => runTask task x) (runBegun s choices) ∧
    Ran (runBegun s choices) order (1 + 2 * s.peers.length +
      ((List.finRange 4).filter fun k => (s.cmd k).qualified && (s.cmd k).outgoing.isSome).length) (enterRun s) := by
  have perm := arrange_perm (runReady s).runTasks.length (runReady s).tieBreak (runReady s).runTasks (Nat.le_refl _)
  rw [enterRun_eq, State.inSomeOrder]
  generalize arrange _ _ _ = arranged at perm
  obtain ⟨order, choices⟩ := arranged
  rw [runTasks_runReady] at perm
  refine ⟨order, choices, perm, rfl, ?_⟩
  have found : ∀ task ∈ order, TaskFound (runBegun s choices) task := fun task member => by
    have here := perm.mem_iff.1 member
    cases task with
    | mark | echoes => trivial
    | lane p =>
      show ((runReady s).port p).enabled = true
      rw [runReady_port, startAssembler_enabled]
      exact (lane_mem_tasksAtRun s p).1 here
    | assertion k => exact ((assertion_mem_tasksAtRun s k).1 here).2
  have ran := Ran.tasks rfl order (.start (runBegun s choices)) (by
    rw [List.nil_append]
    exact perm.nodup_iff.2 (tasksAtRun_nodup s)) found
  rw [List.nil_append, Nat.zero_add, (perm.map _).sum_eq] at ran
  rw [← taskFrames_sum]
  exact ran

/-- The state at the entry with its ports written out. -/
theorem runBegun_eq (s : State) (choices : List Nat) : runBegun s choices = { s with
    ctl := { s.ctl with station := .run, quiet := none }
    marks := PerLane.both ⟨.closed, none, some (s.after 300000)⟩
    markTimer := some (s.after 100000)
    echoTimer := some (s.after (s.image.echoPeriod * 10000))
    tieBreak := choices
    ports := Vector.ofFn fun p => if (s.port p).enabled then
      { s.port p with asm := ⟨true, some (match (s.port p).rx.line with
        | .present => .line []
        | .lost => .station (s.after 10000)), (s.port p).asm.nextCount⟩ } else s.port p } := by
  have ports : (runBegun s choices).ports = Vector.ofFn fun p => startAssembler (s.after 10000) (s.port p) := rfl
  have each : ∀ p, startAssembler (s.after 10000) (s.port p) = if (s.port p).enabled then
      { s.port p with asm := ⟨true, some (match (s.port p).rx.line with
        | .present => .line []
        | .lost => .station (s.after 10000)), (s.port p).asm.nextCount⟩ } else s.port p := fun p => by
    cases on : (s.port p).enabled
    · exact startAssembler_off on _
    · exact startAssembler_on on _
  rw [funext each] at ports
  exact congrArg (fun v => ({ runBegun s choices with ports := v } : State)) ports

section
variable {s : State} {choices : List Nat} {order : List RunTask} {n : Nat} {t : State}
  (ran : Ran (runBegun s choices) order n t) (perm : order.Perm (tasksAtRun s))
include ran perm

theorem ran_port_on {p : Fin 8} (on : (s.port p).enabled = true) : LaneSelected s p
    { s.port p with asm := ⟨true, some (match (s.port p).rx.line with
      | .present => .line []
      | .lost => .station (s.after 10000)), (s.port p).asm.nextCount⟩ } (t.port p) := by
  have selected := ran.selected p (perm.mem_iff.2 ((lane_mem_tasksAtRun s p).2 on))
  have port : (runBegun s choices).port p = startAssembler (s.after 10000) (s.port p) := runReady_port s p
  rw [port, startAssembler_on on] at selected
  exact selected.before (.refl _) rfl rfl

theorem ran_port_off {p : Fin 8} (off : (s.port p).enabled = false) : t.port p = s.port p := by
  have unselected : RunTask.lane p ∉ order := fun member => by
    rw [(lane_mem_tasksAtRun s p).1 (perm.mem_iff.1 member)] at off
    cases off
  have port : (runBegun s choices).port p = s.port p := (runReady_port s p).trans (startAssembler_off off _)
  have aside := (ran.waiting p unselected).2
  rw [port] at aside
  exact aside off

theorem ran_cmd (k : Fin 4) : t.cmd k = { s.cmd k with
    outgoing := if (s.cmd k).qualified then (s.cmd k).outgoing.map (assertedRecord s k) else (s.cmd k).outgoing } := by
  have member : .assertion k ∈ order ↔ _ := perm.mem_iff.trans (assertion_mem_tasksAtRun s k)
  by_cases asserted : RunTask.assertion k ∈ order
  · rw [if_pos (member.1 asserted).1]
    exact ran.asserted k asserted
  · rw [show t.cmd k = s.cmd k from ran.unasserted k asserted]
    split
    · next qualified =>
      have none : (s.cmd k).outgoing = none := by
        rw [← Option.not_isSome_iff_eq_none]
        exact fun some => asserted (member.2 ⟨qualified, some⟩)
      rw [none]
      exact congrArg (fun o => ({ s.cmd k with outgoing := o } : Command)) none
    · rfl

end

/-- Settles O56 (R11, R31, R46, R92, R100, R120, R137, R138, R173, R175). -/
theorem entryToRun : Obligations.EntryToRun := by
  intro s u high quiet timer due
  obtain ⟨order, choices, perm, eq, ran⟩ := enterRun_ran s
  have exec : exec .quietExpiry s = .next (enterRun s) := by
    show execQuietExpiry s = _
    rw [execQuietExpiry, running_high high, if_pos (by rw [quiet]; rfl), onExpiry_due timer due]
  refine ⟨enterRun s, exec, congrArg (·.station) ran.ctl, congrArg (·.quiet) ran.ctl, congrArg (·.number) ran.ctl, fun L => ?_,
    ran.touched.same .markTimer (by decide), ran.touched.same .echoTimer (by decide), fun p on => ?_,
    fun p off => ran_port_off ran perm off, fun k o here => ?_, fun k => ?_,
    ((runBegun_touches s choices).mono (by decide)).trans (ran.touched.mono (by decide)), ?_, fun x => ?_⟩
  · rw [State.mark, ran.touched.same .marks (by decide)]
    exact PerLane.get_both _ L
  · have selected := ran_port_on ran perm on
    exact ⟨selected.asm, selected.state, selected.tally, selected.rx, selected.engine, selected.clk, selected.tx⟩
  · rw [ran_cmd ran perm, here]
    cases (s.cmd k).qualified <;> rfl
  · rw [ran_cmd ran perm]
    exact ⟨rfl, rfl, rfl⟩
  · intro enabled asserted
    refine ⟨congrArg (·.sequence) ran.ctl, fun p member => ?_, order, choices, perm, ?_⟩
    · have on : (s.port p).enabled = true := (List.mem_filter.1 member).2
      have selected := ran_port_on ran perm on
      exact ⟨selected.switched, selected.stays⟩
    · exact eq.trans (congrArg (fun b => order.foldl (fun x task => runTask task x) b) (runBegun_eq s choices))
  · refine ⟨rfl, rfl, fun p on => if_pos on, fun k o here => ?_⟩
    exact takeAssertion_eq here

end Sys2Proof.Machine
end

section
/-! Frames (chapter 1): what is read back of an originated and of a forwarded frame, the check sequence bit by bit, and
what is malformed. -/

namespace Sys2Proof.Machine

open Sys2Proof.Safety

/-! ### Check sequences (R2, R184) -/

theorem checkPasses_iff (f : Octets) : checkPasses f = true ↔ 13 ≤ f.length ∧ f.length = (rd16 f 7).toNat + 13 ∧
    rd32 f (f.length - 4) = checkSequence (f.take (f.length - 4)) := by
  simp only [checkPasses, frameBodyLength, Bool.and_eq_true, decide_eq_true_eq, beq_iff_eq, and_assoc]

theorem checkSequence_bits (o : Octets) : checkSequence o = ~~~((bitsSent o).foldl checkStep 0xFFFFFFFF) := by
  rw [checkSequence, bitsSent, List.foldl_flatMap]
  simp only [← crcOctet_bits]

section
variable (o : Octets)

theorem length_withCheck : (withCheck o).length = o.length + 4 := List.length_append

theorem oct_withCheck {i : Nat} (h : i < o.length) : oct (withCheck o) i = oct o i := oct_append_left _ _ _ h

theorem rd16_withCheck {i : Nat} (h : i + 1 < o.length) : rd16 (withCheck o) i = rd16 o i := by
  rw [rd16, rd16, oct_withCheck o (by omega), oct_withCheck o h]

/-- R2: header and body that are as long as the header says pass with their check sequence appended. -/
theorem withCheck_passes (header : 9 ≤ o.length) (long : o.length = (rd16 o 7).toNat + 9) :
    checkPasses (withCheck o) = true := by
  rw [checkPasses_iff, length_withCheck, rd16_withCheck o (by omega)]
  refine ⟨by omega, by omega, ?_⟩
  have body : (withCheck o).take (o.length + 4 - 4) = o := List.take_left' rfl
  rw [body]
  have check := rd32_append o [] o.length rfl (checkSequence o)
  rwa [List.append_nil] at check

end

/-! ### Originated frames -/

section
variable (k : FrameKind) (src dst : Nat) (seq : BitVec 16) (body : Octets)

theorem length_buildFrame : (buildFrame k src dst seq body).length = body.length + 9 := by
  rw [buildFrame, List.length_append, Nat.add_comm]
  rfl

theorem kindOf_code : ∀ k : FrameKind, kindOf k.code = some k := fun k => by cases k <;> rfl

theorem stationOctet {n : Nat} (h : n < 64) : (be8 (n % 64)).toNat % 64 = n := by
  rw [be8, BitVec.toNat_ofNat]
  omega

theorem buildFrame_bodyLength (short : body.length < 65536) :
    (rd16 (buildFrame k src dst seq body) 7).toNat = body.length := by
  rw [show rd16 (buildFrame k src dst seq body) 7 = BitVec.ofNat 16 body.length from be16_read _, BitVec.toNat_ofNat]
  exact Nat.mod_eq_of_lt short

theorem buildFrame_body : (buildFrame k src dst seq body).drop 9 = body := rfl

/-- R11, section 11.2: what is read back of an originated frame. -/
theorem originated_readsBack (hsrc : src < 64) (hdst : dst < 64) (short : body.length < 65536) :
    let f := withCheck (buildFrame k src dst seq body)
    checkPasses f = true ∧ f.length = body.length + 13 ∧ kindOf (oct f 0) = some k ∧ frameVersion f = 1 ∧
      frameSource f = src ∧ frameDest f = dst ∧ frameHop f = 63 ∧ frameSeq f = seq ∧ frameBody f = body := by
  intro f
  have length := length_buildFrame k src dst seq body
  have bodyLength := buildFrame_bodyLength k src dst seq body short
  refine ⟨withCheck_passes _ (by omega) (by omega), by rw [length_withCheck, length], kindOf_code k, rfl,
    stationOctet hsrc, stationOctet hdst, rfl, be16_read seq, ?_⟩
  have whole : frameBodyLength f = body.length := by
    rw [frameBodyLength, rd16_withCheck _ (by omega), bodyLength]
  rw [frameBody, whole]
  exact List.take_left' rfl

end

/-! ### Forwarded copies (R8) -/

theorem oct_set_same (o : Octets) {i : Nat} (h : i < o.length) (b : Byte) : oct (o.set i b) i = b := by
  simp [oct, h]

theorem oct_set_other (o : Octets) {i j : Nat} (h : j ≠ i) (b : Byte) : oct (o.set i b) j = oct o j := by
  simp only [oct, List.getD_eq_getElem?_getD, List.getElem?_set_ne (Ne.symm h)]

theorem oct_take (o : Octets) {n i : Nat} (h : i < n) : oct (o.take n) i = oct o i := by
  simp only [oct, List.getD_eq_getElem?_getD, List.getElem?_take, if_pos h]

theorem forwardedCopy_readsBack {f : Octets} (passes : checkPasses f = true) (hop : 1 ≤ frameHop f) :
    checkPasses (forwardedCopy f) = true ∧ (forwardedCopy f).length = f.length ∧
      frameHop (forwardedCopy f) = frameHop f - 1 ∧
      ∀ i, i ≠ 4 → i < f.length - 4 → oct (forwardedCopy f) i = oct f i := by
  obtain ⟨least, long, -⟩ := (checkPasses_iff f).1 passes
  rw [forwardedCopy]
  generalize ho : (f.take (f.length - 4)).set 4 (oct f 4 - 1) = o
  have length : o.length = f.length - 4 := by
    rw [← ho, List.length_set, List.length_take]
    omega
  have others : ∀ i, i ≠ 4 → i < f.length - 4 → oct o i = oct f i := fun i other below => by
    rw [← ho, oct_set_other _ other, oct_take f below]
  have bodyLength : rd16 o 7 = rd16 f 7 := by
    rw [rd16, rd16, others 7 (by decide) (by omega), others 8 (by decide) (by omega)]
  have lowered : oct o 4 = oct f 4 - 1 := by
    rw [← ho, oct_set_same _ (by rw [List.length_take]; omega)]
  refine ⟨withCheck_passes o (by omega) (by rw [bodyLength]; omega), by rw [length_withCheck]; omega, ?_,
    fun i other below => ?_⟩
  · rw [frameHop, oct_withCheck o (by omega), lowered]
    have here : 1 ≤ (oct f 4).toNat := hop
    rw [frameHop, BitVec.toNat_sub, show (1 : Byte).toNat = 1 from rfl]
    have small := (oct f 4).isLt
    omega
  · rw [oct_withCheck o (by omega), others i other below]

/-! ### Malformed frames (R3) -/

theorem kindOf_none_iff (b : Byte) : kindOf b = none ↔ b = 0 ∨ 8 < b.toNat := by
  revert b
  decide

theorem code_of_kindOf {b : Byte} {k : FrameKind} (h : kindOf b = some k) : b = k.code :=
  (by decide : ∀ b : Byte, ∀ k ∈ kindOf b, b = k.code) b k h

theorem bodyLength_of_class : ∀ b : Byte, (classOf b.toNat).map RateClass.bodyLength =
    if b = 0 then some 262 else if b = 1 then some 199 else if b = 2 then some 47 else none := by decide

theorem requiredBody_trib (body : Octets) (n : Nat) : requiredBody .trib body = some n ↔
    (oct body 2 = 0 ∧ n = 262) ∨ (oct body 2 = 1 ∧ n = 199) ∨ (oct body 2 = 2 ∧ n = 47) := by
  rw [requiredBody, bodyLength_of_class]
  generalize oct body 2 = b
  split
  · next first => simp [first, eq_comm]
  · split
    · next second => simp [second, eq_comm]
    · split
      · next third => simp [third, eq_comm]
      · next first second third =>
        refine ⟨fun h => (by cases h), ?_⟩
        rintro (⟨h, -⟩ | ⟨h, -⟩ | ⟨h, -⟩)
        exacts [absurd h first, absurd h second, absurd h third]

theorem requiredBody_qryR (body : Octets) (n : Nat) : requiredBody .qryR body = some n ↔
    match (oct body 4).toNat, (oct body 0).toNat with
    | 0, 1 => n = 132
    | 0, 2 => n = 100
    | 0, 3 => n = 98
    | 0, 5 => (oct body 6).toNat ≤ 8 ∧ n = max 47 (8 + 10 * (oct body 6).toNat)
    | _, _ => n = 47 := by
  rw [requiredBody, replyBodyLength]
  by_cases status : oct body 4 = 0
  · rw [if_pos (by rw [status]; rfl), show (oct body 4).toNat = 0 by rw [status]; rfl]
    split
    · next kind => simp only [kind, Option.some_inj, eq_comm]
    · next kind => simp only [kind, Option.some_inj, eq_comm]
    · next kind => simp only [kind, Option.some_inj, eq_comm]
    · next kind =>
      simp only [kind]
      split
      · next few => exact Option.some_inj.trans (eq_comm.trans (and_iff_right few).symm)
      · next many => exact ⟨fun h => (by cases h), fun h => absurd h.1 many⟩
    · next station circuit peer drain =>
      split
      case h_1 kind => exact (station kind).elim
      case h_2 kind => exact (circuit kind).elim
      case h_3 kind => exact (peer kind).elim
      case h_4 kind => exact (drain kind).elim
      case h_5 => exact Option.some_inj.trans eq_comm
  · have other : (oct body 4).toNat ≠ 0 := fun h => status (BitVec.eq_of_toNat_eq h)
    rw [if_neg (by simpa using status)]
    split
    case h_5 => exact Option.some_inj.trans eq_comm
    all_goals next zero _ => exact absurd zero other

theorem lengthAgrees_iff {f : Octets} {k : FrameKind} (h : kindOf (oct f 0) = some k) :
    requiredBody k (frameBody f) = some (frameBodyLength f) ↔ LengthAgrees f := by
  have code := code_of_kindOf h
  unfold LengthAgrees
  dsimp only
  rw [code]
  cases k with
  | trib => exact requiredBody_trib _ _
  | qryR => exact requiredBody_qryR _ _
  | mark | echo | echoR | cmd | cmdAck | qry => exact (Option.some_inj).trans eq_comm

theorem malformed_iff (f : Octets) : malformed f = true ↔ (oct f 0 = 0 ∨ 8 < (oct f 0).toNat) ∨ oct f 1 ≠ 1 ∨
    ((oct f 2).toNat % 64 = 0 ∨ (oct f 2).toNat % 64 = 63) ∨ (oct f 3).toNat % 64 = 0 ∨ 63 < (oct f 4).toNat ∨
    ¬LengthAgrees f := by
  rw [← kindOf_none_iff]
  unfold malformed
  cases kind : kindOf (oct f 0) with
  | none => simp
  | some k =>
    simp only [Bool.or_eq_true, bne_iff_ne, beq_iff_eq, decide_eq_true_eq, ne_eq, lengthAgrees_iff kind, or_assoc,
      reduceCtorEq, false_or]
    rfl

/-- Settles O16 (R2, R3, R8, R11, R184). -/
theorem framesReadBack : Obligations.FramesReadBack :=
  ⟨fun k src dst seq body hsrc hdst short => originated_readsBack k src dst seq body hsrc hdst short,
    fun _ passes hop => forwardedCopy_readsBack passes hop, checkPasses_iff, checkSequence_bits, malformed_iff⟩

end Sys2Proof.Machine
end
